-- ==== Sys2Proof/Word.lean ====
section
/-!
DEFINITION. The plain value types of LA-CORE (spec/30_encoding.md R90, spec/00_scope.md R9, R10).
-/
namespace Sys2Proof

/-- One byte of the Report Buffer or of the GPIO scratch (R60). -/
abbrev Byte := BitVec 8

/-- A command word, format `CMD32` (R91). Bit 31 is the most significant bit. -/
abbrev Word32 := BitVec 32

/-- A protocol tag, format `TAG4` (R92). -/
abbrev Tag := BitVec 4

/-- One Sample, format `SAMPLE` (R93): a `SAMPLE_W`-bit unsigned integer whose bit `k` is the level of
channel `k`. `SAMPLE_W` is a parameter of the instance, so the width is kept by the operation that stores a
Sample (TICK stores the low `SAMPLE_W` bits) and by the invariant `Safety.SamplesFit`. -/
abbrev Sample := Nat

/-- A byte string of R9, first character first. -/
abbrev Text := List Byte

end Sys2Proof
end

