-- ==== Sys2Proof/Machine/Registers.lean ====
section
/-!
DEFINITION. The working registers of a decode run (spec/10_state.md R38 to R45), as plain data.
-/
namespace Sys2Proof.Machine

/-- `spi_st` (R42). -/
inductive SpiState where
  | idle
  | transfer
deriving DecidableEq, Repr, Inhabited

/-- `i2c_st` (R43); the code 3 is never held. -/
inductive I2cState where
  | idle
  | data
  | ack
deriving DecidableEq, Repr, Inhabited

/-- `uart_st` (R44); the code 3 is never held. -/
inductive UartState where
  | idle
  | data
  | stop
deriving DecidableEq, Repr, Inhabited

/-- Working registers of the GPIO edge detector (R41). -/
structure GpioRegs where
  chan : Nat
  hasTr : Bool
  sep : Bool
  scrCur : Nat
deriving DecidableEq, Repr, Inhabited

/-- Working registers of the SPI frame decoder (R42). -/
structure SpiRegs where
  st : SpiState
  bitcnt : Nat
  mosiAcc : Byte
  misoAcc : Byte
  ts : Nat
deriving DecidableEq, Repr, Inhabited

/-- Working registers of the I2C frame decoder (R43). -/
structure I2cRegs where
  st : I2cState
  acc : Byte
  bitcnt : Nat
deriving DecidableEq, Repr, Inhabited

/-- Working registers of the UART frame decoder (R44). -/
structure UartRegs where
  st : UartState
  acc : Byte
  bitcnt : Nat
  ts : Nat
  nxt : Nat
  spb : Nat
deriving DecidableEq, Repr, Inhabited

/-- Working registers of the report formatter (R45). -/
structure FmtRegs where
  cur : Nat
  first : Bool
deriving DecidableEq, Repr, Inhabited

/-- All working registers of a decode run (R38 to R45), with the scan index `i` (R40). -/
structure Work where
  scanIdx : Nat
  gpio : GpioRegs
  spi : SpiRegs
  i2c : I2cRegs
  uart : UartRegs
  fmt : FmtRegs
deriving DecidableEq, Repr, Inhabited

end Sys2Proof.Machine
end

