-- ==== Sys2Proof/Config.lean ====
section
/-!
DEFINITION. The implementation parameters of LA-CORE (spec/00_scope.md R5, R6): every size, rate, reset
configuration value and channel assignment, as one record that a machine carries unchanged. And the free values: what
the working registers, the Report Buffer above the Report and the scratch hold between two decode runs.
-/
namespace Sys2Proof

/-- The parameters of one instance of the hardware, in the order of R5's table. `L = N/2` is derived
(`Params.half`), and the number of channels looked at is fixed at 8. The types carry the ranges of the reset
configuration and of the `CH_*` channels; the other constraints of R5 are `Params.wf` in WellFormed.lean. -/
structure Params where
  /-- `N`, Samples in the Sample Buffer. -/
  bufSize : Nat
  /-- `SAMPLE_W`, bits of one Sample. -/
  sampleWidth : Nat
  /-- `REPORT_CAP`, bytes of the Report Buffer RB. -/
  reportCap : Nat
  /-- `SCRATCH_CAP`, bytes of the GPIO scratch buffer SCR. -/
  scratchCap : Nat
  /-- `FMT_RESERVE`, bytes at the end of a buffer that no append may use. -/
  fmtReserve : Nat
  /-- `SAMPLE_RATE_HZ`. -/
  sampleRate : Nat
  /-- `UART_BAUD_RESET`. -/
  uartBaudReset : BitVec 24
  /-- `PROTO_RESET`. -/
  protoReset : Tag
  /-- `SPI_MODE_RESET`. -/
  spiModeReset : BitVec 2
  /-- `CH_SPI_CLK`. -/
  chSpiClk : Fin 8
  /-- `CH_SPI_MOSI`. -/
  chSpiMosi : Fin 8
  /-- `CH_SPI_MISO`. -/
  chSpiMiso : Fin 8
  /-- `CH_SPI_CS`. -/
  chSpiCs : Fin 8
  /-- `CH_I2C_SCL`. -/
  chI2cScl : Fin 8
  /-- `CH_I2C_SDA`. -/
  chI2cSda : Fin 8
  /-- `CH_UART_RX`. -/
  chUartRx : Fin 8
deriving DecidableEq, Repr, Inhabited

/-- `L = N/2`, the number of Samples in one half (R5). -/
def Params.half (p : Params) : Nat := p.bufSize / 2

/-- `NCH`, the channels the GPIO detector scans: fixed at 8, not a parameter (R5). -/
def channelCount : Nat := 8

/-- The column "recommended" of R5's table. -/
def Params.recommended : Params where
  bufSize := 1024
  sampleWidth := 8
  reportCap := 2048
  scratchCap := 512
  fmtReserve := 1
  sampleRate := 96000
  uartBaudReset := 9600#24
  protoReset := 0#4
  spiModeReset := 0#2
  chSpiClk := 0
  chSpiMosi := 1
  chSpiMiso := 2
  chSpiCs := 3
  chI2cScl := 0
  chI2cSda := 1
  chUartRx := 0

/-- The column "test" of R5's table: the configuration of spec/95_test_vectors.md. -/
def Params.test : Params :=
  { Params.recommended with bufSize := 128, reportCap := 256, scratchCap := 64, sampleRate := 28800 }

/-- What the working registers hold after the `k`-th completed run: ANY VALUE (spec/10_state.md R38;
spec/93_implementation_defined.md U2). It has no body, so nothing can be proved of it. Every run initialises the
registers it uses before it reads them. Log entry 4. -/
opaque Config.freeWork (k : Nat) : Machine.Work

/-- What byte `a` of the Report Buffer, at or above the Report's length, holds after the `k`-th completed run: ANY VALUE
(spec/20_memory.md R67; spec/93_implementation_defined.md U3). It has no body. Log entry 13. -/
opaque Config.freeReportByte (k a : Nat) : Byte

/-- What byte `a` of the scratch holds after the `k`-th completed run, if that was a RUN.GPIO: ANY VALUE
(spec/93_implementation_defined.md U2). It has no body. Log entry 13. -/
opaque Config.freeScratchByte (k a : Nat) : Byte

end Sys2Proof
end

