-- ==== Sys2Proof/Syntax.lean ====
section
/-!
DEFINITION. The encoded operations of LA-CORE: one constructor per row of spec/opcode_table.json, 11 rows of
format `CMD32` and 6 of format `TAG4` (spec/30_encoding.md R100, R101, R113). A constructor carries EVERY field of
its row that the row's mask leaves free, the bits the spec calls ignored among them (R102 (c)), so that no bit
of an encoding is lost between a word and its instruction.
-/
namespace Sys2Proof

/-- The operations with an encoding. `proto` is `w[27:24]`, `param` is `w[23:0]`, `op` is `w[31:28]` (R91). -/
inductive Instr where
  /-- CFG.GPIO (R121); `param` is ignored (R96). -/
  | cfgGpio (param : BitVec 24)
  /-- CFG.SPI mode (R122): `mode = PARAM[1:0]`; `ignored = PARAM[23:2]` (R94). -/
  | cfgSpi (ignored : BitVec 22) (mode : BitVec 2)
  /-- CFG.I2C (R123); `param` is ignored (R96). -/
  | cfgI2c (param : BitVec 24)
  /-- CFG.UART baud (R124): `baud = PARAM[23:0]` (R95). -/
  | cfgUart (baud : BitVec 24)
  /-- CFG.UNK, the row of PROTO 4 to 7 (R125). -/
  | cfgUnkLow (proto : BitVec 4) (param : BitVec 24)
  /-- CFG.UNK, the row of PROTO 8 to 15 (R125). -/
  | cfgUnkHigh (proto : BitVec 4) (param : BitVec 24)
  /-- START (R126); `w[27:0]` is ignored. -/
  | start (proto : BitVec 4) (param : BitVec 24)
  /-- RSVD, the row of OP 0 (R127). -/
  | rsvdOp0 (proto : BitVec 4) (param : BitVec 24)
  /-- RSVD, the row of OP 3 (R127). -/
  | rsvdOp3 (proto : BitVec 4) (param : BitVec 24)
  /-- RSVD, the row of OP 4 to 7 (R127). -/
  | rsvdOp4to7 (op : BitVec 4) (proto : BitVec 4) (param : BitVec 24)
  /-- RSVD, the row of OP 8 to 15 (R127). -/
  | rsvdOp8to15 (op : BitVec 4) (proto : BitVec 4) (param : BitVec 24)
  /-- RUN.GPIO, tag 0000 (R180). -/
  | runGpio
  /-- RUN.SPI, tag 0001 (R200). -/
  | runSpi
  /-- RUN.I2C, tag 0010 (R220). -/
  | runI2c
  /-- RUN.UART, tag 0011 (R240). -/
  | runUart
  /-- RUN.UNK, the row of tags 01tt (R165). -/
  | runUnkLow (tag : Tag)
  /-- RUN.UNK, the row of tags 1ttt (R165). -/
  | runUnkHigh (tag : Tag)
deriving DecidableEq, Repr

/-- What the block decodes: a whole command word from the command port, or the tag `snap.proto` at a RUN (R90). -/
inductive Fetched where
  | cmd32 (w : Word32)
  | tag4 (t : Tag)
deriving DecidableEq, Repr

end Sys2Proof
end

