-- ==== Sys2Proof/WellFormed.lean ====
section
/-!
DEFINITION. What makes a set of parameters a legal instance (spec/00_scope.md R5) and a term of `Instr` one that
some word or tag encodes (spec/30_encoding.md R100, R101).
-/
namespace Sys2Proof

/-- A constraint of R5's table, one name each, so that a test can say which one a set of parameters breaks. -/
inductive ParamRule where
  | bufSizeEven | bufSizeTwo | sampleWidthEight | reserveOne | reportAboveReserve | scratchAboveReserve
  | rateOne | baudNonzero
deriving DecidableEq, Repr

/-- Every rule of `ParamRule`, in the order of R5's table. -/
def ParamRule.all : List ParamRule :=
  [.bufSizeEven, .bufSizeTwo, .sampleWidthEight, .reserveOne, .reportAboveReserve, .scratchAboveReserve, .rateOne,
    .baudNonzero]

/-- Whether the parameters obey one constraint of R5. -/
def Params.obeys (p : Params) : ParamRule → Bool
  | .bufSizeEven => p.bufSize % 2 == 0
  | .bufSizeTwo => decide (2 ≤ p.bufSize)
  | .sampleWidthEight => decide (8 ≤ p.sampleWidth)
  | .reserveOne => decide (1 ≤ p.fmtReserve)
  | .reportAboveReserve => decide (p.fmtReserve < p.reportCap)
  | .scratchAboveReserve => decide (p.fmtReserve < p.scratchCap)
  | .rateOne => decide (1 ≤ p.sampleRate)
  | .baudNonzero => decide (p.uartBaudReset ≠ 0#24)

/-- The parameters are those of a legal instance: every constraint of R5 holds (the ranges of `PROTO_RESET`,
`SPI_MODE_RESET`, `CH_*` and the upper bound of `UART_BAUD_RESET` are in the types). An instance that fails
this "is not this block" (spec/93_implementation_defined.md U11). -/
def Params.wf (p : Params) : Bool := ParamRule.all.all p.obeys

/-- The term is the instruction of some word or tag: a field whose row fixes some of its bits has those bits
(the ranges in the mnemonic column of R100, the patterns of R101). -/
def Instr.wf : Instr → Bool
  | .cfgGpio _ => true
  | .cfgSpi _ _ => true
  | .cfgI2c _ => true
  | .cfgUart _ => true
  | .cfgUnkLow proto _ => decide (4#4 ≤ proto) && decide (proto ≤ 7#4)
  | .cfgUnkHigh proto _ => decide (8#4 ≤ proto)
  | .start _ _ => true
  | .rsvdOp0 _ _ => true
  | .rsvdOp3 _ _ => true
  | .rsvdOp4to7 op _ _ => decide (4#4 ≤ op) && decide (op ≤ 7#4)
  | .rsvdOp8to15 op _ _ => decide (8#4 ≤ op)
  | .runGpio => true
  | .runSpi => true
  | .runI2c => true
  | .runUart => true
  | .runUnkLow tag => decide (4#4 ≤ tag) && decide (tag ≤ 7#4)
  | .runUnkHigh tag => decide (8#4 ≤ tag)

end Sys2Proof
end

