-- ==== Sys2Proof/Decode.lean ====
section
/-!
DEFINITION. Decoding (spec/30_encoding.md R91, R92, R94, R95, R100, R101), the table of match and mask pairs of R100,
and the encoder. Decoding a command word and decoding a tag are total, so the only rejections are of a value that
is neither a whole command word nor a tag.
-/
namespace Sys2Proof

/-- The field `OP` of a command word, bits 31:28 (R91). -/
def fieldOp (w : Word32) : BitVec 4 := w.extractLsb' 28 4

/-- The field `PROTO` of a command word, bits 27:24 (R91). -/
def fieldProto (w : Word32) : BitVec 4 := w.extractLsb' 24 4

/-- The field `PARAM` of a command word, bits 23:0 (R91). -/
def fieldParam (w : Word32) : BitVec 24 := w.extractLsb' 0 24

/-- `mode = PARAM[1:0]` of CFG.SPI (R94). -/
def fieldMode (param : BitVec 24) : BitVec 2 := param.extractLsb' 0 2

/-- `PARAM[23:2]` of CFG.SPI, ignored by the block (R94). -/
def fieldModeRest (param : BitVec 24) : BitVec 22 := param.extractLsb' 2 22

/-- Decode a configure word by its `PROTO` (R100 (3)). -/
def decodeConfigure (proto : BitVec 4) (param : BitVec 24) : Instr :=
  if proto = 0#4 then .cfgGpio param
  else if proto = 1#4 then .cfgSpi (fieldModeRest param) (fieldMode param)
  else if proto = 2#4 then .cfgI2c param
  else if proto = 3#4 then .cfgUart param
  else if proto ≤ 7#4 then .cfgUnkLow proto param
  else .cfgUnkHigh proto param

/-- Decode a command word, in the order R100 gives. -/
def decodeCmd (w : Word32) : Instr :=
  if fieldOp w = 2#4 then .start (fieldProto w) (fieldParam w)
  else if fieldOp w = 1#4 then decodeConfigure (fieldProto w) (fieldParam w)
  else if fieldOp w = 0#4 then .rsvdOp0 (fieldProto w) (fieldParam w)
  else if fieldOp w = 3#4 then .rsvdOp3 (fieldProto w) (fieldParam w)
  else if fieldOp w ≤ 7#4 then .rsvdOp4to7 (fieldOp w) (fieldProto w) (fieldParam w)
  else .rsvdOp8to15 (fieldOp w) (fieldProto w) (fieldParam w)

/-- Decode a protocol tag at RUN (R101). -/
def decodeTag (t : Tag) : Instr :=
  if t = 0#4 then .runGpio
  else if t = 1#4 then .runSpi
  else if t = 2#4 then .runI2c
  else if t = 3#4 then .runUart
  else if t ≤ 7#4 then .runUnkLow t
  else .runUnkHigh t

/-- Decode whatever the block decodes (R90). -/
def decode : Fetched → Instr
  | .cmd32 w => decodeCmd w
  | .tag4 t => decodeTag t

/-- Why a raw number of some width is nothing the block decodes. -/
inductive DecodeError where
  /-- Raised by `fetchedOf` for a width that is neither a command word's 32 bits nor a tag's (4 bits, or a byte
  that holds one): R103 has no other format. Safe: nothing is executed. -/
  | noSuchFormat (nbits : Nat)
  /-- Raised by `fetchedOf` for a value that does not fit its format. Safe: nothing is executed. -/
  | tooWide (value : Nat)
deriving DecidableEq, Repr

/-- Read a raw number as a command word (32 bits) or a tag (4 bits, alone or in a byte whose high half is 0). -/
def fetchedOf (nbits w : Nat) : Except DecodeError Fetched :=
  if nbits = 32 then
    if w < 2 ^ 32 then .ok (.cmd32 (BitVec.ofNat 32 w)) else .error (.tooWide w)
  else if nbits = 8 ∨ nbits = 4 then
    if w < 2 ^ 4 then .ok (.tag4 (BitVec.ofNat 4 w)) else .error (.tooWide w)
  else .error (.noSuchFormat nbits)

/-- The instruction read from a raw number, or the name of why there is none. -/
def decodeRaw (nbits w : Nat) : Except DecodeError Instr :=
  match fetchedOf nbits w with
  | .ok f => .ok (decode f)
  | .error e => .error e

/-- The instruction the decoder reads from a row's bits, numbered as spec/opcode_table.json numbers them. -/
def decodeTableWord (nbits w : Nat) : Option Instr :=
  match decodeRaw nbits w with
  | .ok i => some i
  | .error _ => none

/-- The command word with the given three fields (R91). -/
def commandWord (op proto : BitVec 4) (param : BitVec 24) : Word32 := op ++ proto ++ param

/-- The word or tag that encodes an instruction (R100, R101). -/
def encode : Instr → Fetched
  | .cfgGpio param => .cmd32 (commandWord 1#4 0#4 param)
  | .cfgSpi ignored mode => .cmd32 (commandWord 1#4 1#4 (ignored ++ mode))
  | .cfgI2c param => .cmd32 (commandWord 1#4 2#4 param)
  | .cfgUart baud => .cmd32 (commandWord 1#4 3#4 baud)
  | .cfgUnkLow proto param => .cmd32 (commandWord 1#4 proto param)
  | .cfgUnkHigh proto param => .cmd32 (commandWord 1#4 proto param)
  | .start proto param => .cmd32 (commandWord 2#4 proto param)
  | .rsvdOp0 proto param => .cmd32 (commandWord 0#4 proto param)
  | .rsvdOp3 proto param => .cmd32 (commandWord 3#4 proto param)
  | .rsvdOp4to7 op proto param => .cmd32 (commandWord op proto param)
  | .rsvdOp8to15 op proto param => .cmd32 (commandWord op proto param)
  | .runGpio => .tag4 0#4
  | .runSpi => .tag4 1#4
  | .runI2c => .tag4 2#4
  | .runUart => .tag4 3#4
  | .runUnkLow tag => .tag4 tag
  | .runUnkHigh tag => .tag4 tag

/-- The command lines the host's parser recognises (R110). The parser stands outside the block (R4), which sees only the
word; the SPI mode and the baud rate are those the further keys of the line give. -/
inductive HostLine where
  | configureGpio
  | configureSpi (mode : BitVec 2)
  | configureI2c
  | configureUart (baud : BitVec 24)
  | configureOther
  | startCapture
deriving DecidableEq, Repr

/-- The command word a line is turned into (R110); for a name that is no protocol, the one R110 writes. -/
def HostLine.word : HostLine → Word32
  | .configureGpio => 0x10000000#32
  | .configureSpi mode => 0x11000000#32 + mode.setWidth 32
  | .configureI2c => 0x12000000#32
  | .configureUart baud => 0x13000000#32 + baud.setWidth 32
  | .configureOther => 0x1F000000#32
  | .startCapture => 0x20000000#32

/-- One row of R100's table: a word selects the row when `w & mask = pattern`. -/
structure CmdRow where
  mask : Word32
  pattern : Word32
deriving DecidableEq, Repr

/-- Whether a word selects a row (R100). -/
def CmdRow.selects (row : CmdRow) (w : Word32) : Bool := w &&& row.mask == row.pattern

/-- The eleven rows of R100's table, in its order. -/
def cmdTable : List CmdRow :=
  [⟨0xFF000000, 0x10000000⟩, ⟨0xFF000000, 0x11000000⟩, ⟨0xFF000000, 0x12000000⟩, ⟨0xFF000000, 0x13000000⟩,
    ⟨0xFC000000, 0x14000000⟩, ⟨0xF8000000, 0x18000000⟩, ⟨0xF0000000, 0x20000000⟩, ⟨0xF0000000, 0x00000000⟩,
    ⟨0xF0000000, 0x30000000⟩, ⟨0xC0000000, 0x40000000⟩, ⟨0x80000000, 0x80000000⟩]

/-- The place of a command's row in R100's table; `none` for the operations that a tag selects. -/
def Instr.cmdRow : Instr → Option Nat
  | .cfgGpio _ => some 0
  | .cfgSpi _ _ => some 1
  | .cfgI2c _ => some 2
  | .cfgUart _ => some 3
  | .cfgUnkLow _ _ => some 4
  | .cfgUnkHigh _ _ => some 5
  | .start _ _ => some 6
  | .rsvdOp0 _ _ => some 7
  | .rsvdOp3 _ _ => some 8
  | .rsvdOp4to7 _ _ _ => some 9
  | .rsvdOp8to15 _ _ _ => some 10
  | .runGpio => none
  | .runSpi => none
  | .runI2c => none
  | .runUart => none
  | .runUnkLow _ => none
  | .runUnkHigh _ => none

end Sys2Proof
end

