-- ==== Sys2Proof/Machine/State.lean ====
section
/-!
DEFINITION. The state of LA-CORE (spec/10_state.md), its reset value (spec/70_reset_and_hazards.md R340,
spec/10_state.md R50), the turns the three agents may take (spec/41_arbiter.md R140), and the reasons a step stops.
-/
namespace Sys2Proof.Machine

/-- Analyzer State, register `astate` (R21): 0 = Idle, 1 = Capturing. -/
inductive AnalyzerState where
  | idle
  | capturing
deriving DecidableEq, Repr, Inhabited

/-- A half of the Sample Buffer, registers `sig_half` and `dec_half` (R26, R27): 0 = first, 1 = second. -/
inductive Half where
  | first
  | second
deriving DecidableEq, Repr, Inhabited

/-- Analyzer Configuration, `cfg` and `snap` (R28 to R31). -/
structure Cfg where
  proto : Tag
  spiMode : BitVec 2
  uartBaud : BitVec 24
deriving DecidableEq, Repr, Inhabited

/-- One memory of the block (R60): a list of (element index, element), indices strictly rising, no entry equal to
what an unlisted element reads as. The Report Buffer and the scratch are lists of `Host.Cell`. -/
abbrev Memory (α : Type) := List (Nat × α)

/-- The three address spaces of R60. -/
inductive Space where
  | sb
  | rb
  | scr
deriving DecidableEq, Repr

/-- One turn of one agent (R140, R104). HOST takes `cmd` and `take`, CAPTURE takes `tick`, DISPATCH takes
`wake` and `run`, and the environment asserts `reset`. -/
inductive Turn where
  /-- HOST presents a command word (R120). -/
  | cmd (w : Word32)
  /-- HOST has finished with the Report (R128). -/
  | take
  /-- The sampling trigger fires while the lines are at `pins` (R142). -/
  | tick (pins : Sample)
  /-- DISPATCH consumes the signal, if it may (R161). -/
  | wake
  /-- DISPATCH runs the decoder, if a run is in flight (R162). -/
  | run
  /-- The environment asserts reset (R340). -/
  | reset
deriving DecidableEq, Repr

/-- The machine. The first two fields are the model's own: the instance's parameters, which no step changes (R6), and
the turns the agents take next, in order, which stand for any interleaving (R140). -/
structure State where
  /-- The instance's parameters (R5). Model's own field: the spec calls them constants, not state (R6, R20). -/
  params : Params
  /-- The turns to come, first one next. Model's own field: the free choice of R140 as data. -/
  agenda : List Turn
  /-- How many runs have completed, the argument of the free values of Config.lean. Model's own field. -/
  runCount : Nat
  /-- `astate` (R21). -/
  astate : AnalyzerState
  /-- `trig_en` (R22). -/
  trigEn : Bool
  /-- `note_en` (R23). -/
  noteEn : Bool
  /-- `wr_ptr` (R24). -/
  wrPtr : Nat
  /-- `served` (R25). -/
  served : Bool
  /-- `sig_pending` (R26). -/
  sigPending : Bool
  /-- `sig_half` (R26). -/
  sigHalf : Half
  /-- `dec_busy` (R27). -/
  decBusy : Bool
  /-- `dec_half` (R27). -/
  decHalf : Half
  /-- `snap` (R28). -/
  snap : Cfg
  /-- `cfg` (R29 to R31). -/
  cfg : Cfg
  /-- `rpt_valid` (R32). -/
  rptValid : Bool
  /-- `rpt_len` (R33). -/
  rptLen : Nat
  /-- `SB` (R34). -/
  sb : Memory Sample
  /-- `RB` (R35). -/
  rb : List Host.Cell
  /-- `SCR` (R36). -/
  scr : List Host.Cell
  /-- The working registers of a decode run (R38 to R45). -/
  work : Work
deriving DecidableEq, Repr, Inhabited

/-- Why the machine stops. The spec describes no fault (R300); the one reason is an access to an element that
R60 says does not exist, which no run reaches (R71). -/
inductive Fault where
  /-- Raised by TICK when `wr_ptr` is not below `N`. Safe: R71 says it cannot occur, and the invariant of Safety.lean
  rules it out. -/
  | noSuchElement (space : Space) (index : Nat)
deriving DecidableEq, Repr

/-- Why the model gives no next state. -/
inductive Refusal where
  /-- Raised by an arm of `exec` whose instruction has no meaning yet; no arm does. Safe. -/
  | notModelled (mnemonic : String)
  /-- Raised by RUN when the parameters break a constraint of R5: such an instance "is not this block" (spec/93
  U11, treatment `refuse`). Safe: no legal instance meets it. -/
  | illegalInstance
deriving DecidableEq, Repr

/-- The configuration after reset (R340). -/
def Cfg.atReset (p : Params) : Cfg := ⟨p.protoReset, p.spiModeReset, p.uartBaudReset⟩

/-- Working registers all zero: the value the model gives them before the first run (R50 says unspecified).
DESIGN CHOICE, log entry 3. -/
def Work.zero : Work where
  scanIdx := 0
  gpio := ⟨0, false, false, 0⟩
  spi := ⟨.idle, 0, 0#8, 0#8, 0⟩
  i2c := ⟨.idle, 0#8, 0⟩
  uart := ⟨.idle, 0#8, 0, 0, 0, 0⟩
  fmt := ⟨0, false⟩

/-- The machine right after reset in the instance with parameters `p` (R50, R340), nothing listed in any memory. -/
def State.resetOf (p : Params) : State where
  params := p
  agenda := []
  runCount := 0
  astate := .idle
  trigEn := false
  noteEn := false
  wrPtr := 0
  served := false
  sigPending := false
  sigHalf := .first
  decBusy := false
  decHalf := .first
  snap := Cfg.atReset p
  cfg := Cfg.atReset p
  rptValid := false
  rptLen := 0
  sb := []
  rb := []
  scr := []
  work := Work.zero

/-- The machine right after reset, in the recommended instance of R5 (log entry 1). -/
def State.reset : State := State.resetOf Params.recommended

/-- Build the machine of an instance, checking R5's constraints ("must check the constraints at construction");
an illegal instance has no machine (spec/93 U11). -/
def State.boot (p : Params) : Option State := if p.wf then some (State.resetOf p) else none

end Sys2Proof.Machine
end

