-- ==== Sys2Proof/Machine/Operands.lean ====
section
/-!
DEFINITION. Operands: memory reads, sample bits, shift-in and bit insertion, decimal spelling, and the literal
strings of the Reports (spec/00_scope.md R9, spec/30_encoding.md R105 to R112, spec/42_dispatcher.md R171, R173).
-/
namespace Sys2Proof.Machine

/-- What an unlisted Sample reads as. DESIGN CHOICE, log entry 2 (R34: unspecified; spec/93 U1 allows zeros). -/
def blankSample : Sample := 0

/-- What an unlisted byte of RB or SCR reads as. DESIGN CHOICE, log entry 2 (R35, R36: unspecified). -/
def blankByte : Byte := 0#8

/-- `MemRead(SP:a, 1)` of R9. -/
def readCell {α : Type} (blank : α) : Memory α → Nat → α
  | [], _ => blank
  | (b, v) :: m, a => if a = b then v else readCell blank m a

/-- `MemRead(SP:a, n)` of R9 on a byte memory. -/
def readBytes (m : List Host.Cell) (a : Nat) : Nat → Text
  | 0 => []
  | n + 1 => readCell blankByte m a :: readBytes m (a + 1) n

/-- 0 or 1, the element offset of a half in units of `L` (R61). -/
def Half.index : Half → Nat
  | .first => 0
  | .second => 1

/-- `S[i]` of R9: Sample `i` of the half being decoded, element `dec_half*L + i` of SB (R61, R173). -/
def sampleAt (s : State) (i : Nat) : Sample :=
  readCell blankSample s.sb (s.decHalf.index * s.params.half + i)

/-- `bit(S[i], k)` (R9, R93). -/
def level (s : State) (i k : Nat) : Bool := (sampleAt s i).testBit k

/-- A level or a flag as the number the Report spells. -/
def bitNat (b : Bool) : Nat := b.toNat

/-- `((acc << 1) | b)[7:0]` (R171 (a)). -/
def shiftIn (acc : Byte) (b : Bool) : Byte := (acc <<< 1) ||| BitVec.ofNat 8 (bitNat b)

/-- `acc | (b << k)` (R171 (b)). -/
def insertBit (acc : Byte) (b : Bool) (k : Nat) : Byte := acc ||| (BitVec.ofNat 8 (bitNat b) <<< k)

/-- The ASCII byte of a decimal digit. -/
def digit (n : Nat) : Byte := BitVec.ofNat 8 (0x30 + n)

/-- `dec` with as many digits as the fuel allows. -/
def decFuel : Nat → Nat → Text
  | 0, _ => []
  | f + 1, n => if n < 10 then [digit n] else decFuel f (n / 10) ++ [digit (n % 10)]

/-- `dec(n)`: the shortest ASCII decimal spelling (R107). -/
def dec (n : Nat) : Text := decFuel (n + 1) n

/-- A byte string written as its ASCII characters (R9). -/
def ascii (t : String) : Text := t.toList.map fun c => BitVec.ofNat 8 c.toNat

/-- An opening brace. -/
def lbrace : Text := [0x7B#8]

/-- A closing brace. -/
def rbrace : Text := [0x7D#8]

/-- The separator between records, events and channel entries. -/
def comma : Text := [0x2C#8]

/-- The newline byte that ends every Report (R105). -/
def newline : Byte := 0x0A#8

/-- `H_GPIO` (R106), 44 bytes. -/
def headGpio : Text := lbrace ++ ascii "\"protocol\":\"GPIO\",\"decoded\":[],\"waveform\":" ++ lbrace

/-- `H_SPI` (R108), 29 bytes. -/
def headSpi : Text := lbrace ++ ascii "\"protocol\":\"SPI\",\"decoded\":["

/-- `H_I2C` (R109), 29 bytes. -/
def headI2c : Text := lbrace ++ ascii "\"protocol\":\"I2C\",\"decoded\":["

/-- `H_UART` (R111), 30 bytes. -/
def headUart : Text := lbrace ++ ascii "\"protocol\":\"UART\",\"decoded\":["

/-- The closing text of a GPIO Report (R106). -/
def tailGpio : Text := rbrace ++ rbrace

/-- `T_EV` (R108), 16 bytes. -/
def tailEvents : Text := ascii "],\"waveform\":" ++ lbrace ++ rbrace ++ rbrace

/-- `unk_text` (R112), 49 bytes. -/
def unkText : Text :=
  lbrace ++ ascii "\"protocol\":\"UNKNOWN\",\"decoded\":[],\"waveform\":" ++ lbrace ++ rbrace ++ rbrace

/-- `pair(idx, level)` (R106). -/
def pairText (idx : Nat) (lvl : Bool) : Text := ascii "[" ++ dec idx ++ comma ++ dec (bitNat lvl) ++ ascii "]"

/-- The key of a channel entry up to its opening bracket (R106). -/
def chanKey (c : Nat) : Text := ascii "\"ch" ++ dec c ++ ascii "\":["

/-- The closing bracket of a channel entry (R106). -/
def chanEnd : Text := ascii "]"

/-- `spi_ev(ts, mosi, miso)` (R108). -/
def spiEventText (ts mosi miso : Nat) : Text :=
  lbrace ++ ascii "\"ts\":" ++ dec ts ++ ascii ",\"mosi\":" ++ dec mosi ++ ascii ",\"miso\":" ++ dec miso ++ rbrace

/-- `i2c_ev(START ts)` (R109). -/
def i2cStartText (ts : Nat) : Text := lbrace ++ ascii "\"ts\":" ++ dec ts ++ ascii ",\"type\":\"START\"" ++ rbrace

/-- `i2c_ev(STOP ts)` (R109). -/
def i2cStopText (ts : Nat) : Text := lbrace ++ ascii "\"ts\":" ++ dec ts ++ ascii ",\"type\":\"STOP\"" ++ rbrace

/-- `i2c_ev(DATA ts value)` (R109). -/
def i2cDataText (ts value : Nat) : Text :=
  lbrace ++ ascii "\"ts\":" ++ dec ts ++ ascii ",\"type\":\"DATA\",\"value\":" ++ dec value ++ rbrace

/-- `i2c_ev(ACK ts ack)` (R109). -/
def i2cAckText (ts : Nat) (ack : Bool) : Text :=
  lbrace ++ ascii "\"ts\":" ++ dec ts ++ ascii ",\"type\":\"ACK\",\"ack\":" ++ dec (bitNat ack) ++ rbrace

/-- `uart_ev(ts, value, ferr)` (R111). -/
def uartEventText (ts value : Nat) (ferr : Bool) : Text :=
  lbrace ++ ascii "\"ts\":" ++ dec ts ++ ascii ",\"value\":" ++ dec value ++ ascii ",\"error\":\"" ++
    (if ferr then ascii "Framing" else ascii "None") ++ ascii "\"" ++ rbrace

end Sys2Proof.Machine
end

