-- ==== Sys2Proof/Machine/Flags.lean ====
section
/-!
DEFINITION. One-bit conditions: edges and levels of a channel, the acknowledgement and framing flags, and the enabling
conditions of the DISPATCH steps (spec/10_state.md R46, spec/41_arbiter.md R140, spec/42_dispatcher.md R161, R162).
-/
namespace Sys2Proof.Machine

/-- Rising edge of channel `k` at index `i` (R10), for `1 ≤ i`. -/
def risingEdge (s : State) (i k : Nat) : Bool := !level s (i - 1) k && level s i k

/-- Falling edge of channel `k` at index `i` (R10), for `1 ≤ i`. -/
def fallingEdge (s : State) (i k : Nat) : Bool := level s (i - 1) k && !level s i k

/-- Transition of channel `c` at index `i` (R181), for `1 ≤ i`. -/
def transition (s : State) (i c : Nat) : Bool := level s i c != level s (i - 1) c

/-- Channel `k` is high in the previous and in the current Sample: "clock high and stable" (R222). -/
def stableHigh (s : State) (i k : Nat) : Bool := level s (i - 1) k && level s i k

/-- `ack`, the logical NOT of the sampled data line (R225). -/
def ackFlag (sda : Bool) : Bool := !sda

/-- `ferr`, true iff the stop bit was low (R246). -/
def framingError (rx : Bool) : Bool := !rx

/-- `enabled(WAKE)` (R161). -/
def wakeEnabled (s : State) : Bool := s.sigPending && !s.rptValid && !s.decBusy

/-- `enabled(RUN)` (R162). -/
def runEnabled (s : State) : Bool := s.decBusy

end Sys2Proof.Machine
end

