-- ==== Sys2Proof/Machine/Ops.lean ====
section
/-!
DEFINITION. The named operations over memory and registers: one element written, the naming of error conditions,
ARM, DISARM, NOTIFY, the configuration writes, and the block's analogue of taking an exception and returning from it:
the claim of WAKE and the completion of RUN (spec/60_exceptions.md R312, R313).
-/
namespace Sys2Proof.Machine

/-- `MemWrite(SP:a, 1, v)` of R9, keeping the canonical form: writing what an unlisted element reads as removes the
entry. -/
def writeCell {α : Type} [DecidableEq α] (blank : α) : Memory α → Nat → α → Memory α
  | [], a, v => if v = blank then [] else [(a, v)]
  | (b, x) :: m, a, v =>
    if a < b then (if v = blank then (b, x) :: m else (a, v) :: (b, x) :: m)
    else if a = b then (if v = blank then m else (a, v) :: m)
    else (b, x) :: writeCell blank m a v

/-- The canonical form of a memory: indices strictly rising, no entry equal to what an unlisted element reads as. -/
abbrev Memory.wf {α : Type} [DecidableEq α] (blank : α) (m : Memory α) : Prop :=
  m.Pairwise (fun x y => x.1 < y.1) ∧ ∀ c ∈ m, c.2 ≠ blank

/-- `MemWrite(SP:a, n, bytes)` of R9 on a byte memory, first byte at the lowest index. -/
def writeBytes (m : List Host.Cell) (a : Nat) : Text → List Host.Cell
  | [] => m
  | b :: bs => writeBytes (writeCell blankByte m a b) (a + 1) bs

/-- The bytes `a`, `a+1`, ..., `n` of them, each with its free value. -/
def freeCells (free : Nat → Byte) (a : Nat) : Nat → List Host.Cell
  | 0 => []
  | n + 1 => if free a = blankByte then freeCells free (a + 1) n else (a, free a) :: freeCells free (a + 1) n

/-- A byte memory of capacity `cap` whose bytes at index `a` and above hold any value from now on (R67, spec/93 U2 and U3);
those below are kept. -/
def forgetFrom (free : Nat → Byte) (a cap : Nat) (m : List Host.Cell) : List Host.Cell :=
  m.filter (fun c => decide (c.1 < a)) ++ freeCells free a (cap - a)

/-- The six error conditions of R300. -/
inductive Condition where
  | configUnknownProtocol
  | startWhileBusy
  | outputExhausted
  | framingAnomaly
  | unknownProtocolAtDispatch
  | reservedCommand
deriving DecidableEq, Repr

/-- `raise X()`: never a trap, no state is saved and nothing records it (R9, R300: "A model may implement `raise X()`
as nothing at all"). -/
def raise {α : Type} (_ : Condition) (x : α) : α := x

/-- `cfg.proto <- t` (R29). -/
def setProto (t : Tag) (s : State) : State := { s with cfg := { s.cfg with proto := t } }

/-- `cfg.spi_mode <- m` (R30). -/
def setSpiMode (m : BitVec 2) (s : State) : State := { s with cfg := { s.cfg with spiMode := m } }

/-- `cfg.uart_baud <- b` (R31). -/
def setUartBaud (b : BitVec 24) (s : State) : State := { s with cfg := { s.cfg with uartBaud := b } }

/-- `ARM` (R141). -/
def arm (s : State) : State := { s with wrPtr := 0, trigEn := true, noteEn := true, served := false }

/-- `DISARM` (R146). -/
def disarm (s : State) : State := { s with trigEn := false, noteEn := false }

/-- The enabled half of NOTIFY: post the signal for half `h` (R143). -/
def postSignal (h : Half) (s : State) : State := { s with sigPending := true, sigHalf := h, served := true }

/-- `NOTIFY(h)`: only the first notification after an arm posts (R143). -/
def notify (h : Half) (s : State) : State := if s.noteEn && !s.served then postSignal h s else s

/-- The enabled effect of WAKE, the analogue of taking an exception (R161, R312): save the configuration in `snap` and
the half in `dec_half`, consume the signal, put a run in flight. -/
def claimHalf (s : State) : State :=
  { s with sigPending := false, decHalf := s.sigHalf, snap := s.cfg, decBusy := true }

/-- `COMPLETE`, the analogue of the return from an exception (R164, R313): hand the Report of length `len` over, disarm,
go Idle, end the run. The working registers, and the bytes of RB above the Report, hold any value after it (R38, R67). -/
def complete (len : Nat) (s : State) : State :=
  let d := disarm { s with rptLen := len, rptValid := true }
  { d with
    astate := .idle, decBusy := false, work := Config.freeWork s.runCount, runCount := s.runCount + 1
    rb := forgetFrom (Config.freeReportByte s.runCount) len s.params.reportCap s.rb }

/-- Store one Sample at `wr_ptr`; bits at `SAMPLE_W` and above are no lines and are not stored (R37, R142). -/
def storeSample (pins : Sample) (s : State) : State :=
  { s with sb := writeCell blankSample s.sb s.wrPtr (pins % 2 ^ s.params.sampleWidth) }

end Sys2Proof.Machine
end

