-- ==== Sys2Proof/Machine/Commands.lean ====
section
/-!
DEFINITION. The host commands (spec/40_commands.md): one meaning for each `CMD32` row of spec/opcode_table.json.
Every command is accepted in every state (R120).
-/
namespace Sys2Proof.Machine

/-- CFG.GPIO (R121). -/
def execCfgGpio (_param : BitVec 24) (s : State) : Host.Outcome State Fault Refusal := .next (setProto 0#4 s)

/-- CFG.SPI mode (R122). -/
def execCfgSpi (_ignored : BitVec 22) (mode : BitVec 2) (s : State) : Host.Outcome State Fault Refusal :=
  .next (setSpiMode mode (setProto 1#4 s))

/-- CFG.I2C (R123). -/
def execCfgI2c (_param : BitVec 24) (s : State) : Host.Outcome State Fault Refusal := .next (setProto 2#4 s)

/-- CFG.UART baud: a baud of 0 keeps the rate already held (R124). -/
def execCfgUart (baud : BitVec 24) (s : State) : Host.Outcome State Fault Refusal :=
  .next (if baud = 0#24 then setProto 3#4 s else setUartBaud baud (setProto 3#4 s))

/-- CFG.UNK, PROTO 4 to 7: ConfigUnknownProtocol, no state changes (R125, R301). -/
def execCfgUnkLow (_proto : BitVec 4) (_param : BitVec 24) (s : State) : Host.Outcome State Fault Refusal :=
  .next (raise .configUnknownProtocol s)

/-- CFG.UNK, PROTO 8 to 15: ConfigUnknownProtocol, no state changes (R125, R301). -/
def execCfgUnkHigh (_proto : BitVec 4) (_param : BitVec 24) (s : State) : Host.Outcome State Fault Refusal :=
  .next (raise .configUnknownProtocol s)

/-- START: arm and go Capturing when Idle; StartWhileBusy and nothing else when Capturing (R126, R302). -/
def execStart (_proto : BitVec 4) (_param : BitVec 24) (s : State) : Host.Outcome State Fault Refusal :=
  match s.astate with
  | .idle => .next { arm s with astate := .capturing }
  | .capturing => .next (raise .startWhileBusy s)

/-- RSVD, OP 0: ReservedCommand, no state changes (R127, R306). -/
def execRsvdOp0 (_proto : BitVec 4) (_param : BitVec 24) (s : State) : Host.Outcome State Fault Refusal :=
  .next (raise .reservedCommand s)

/-- RSVD, OP 3: ReservedCommand, no state changes (R127, R306). -/
def execRsvdOp3 (_proto : BitVec 4) (_param : BitVec 24) (s : State) : Host.Outcome State Fault Refusal :=
  .next (raise .reservedCommand s)

/-- RSVD, OP 4 to 7: ReservedCommand, no state changes (R127, R306). -/
def execRsvdOp4to7 (_op _proto : BitVec 4) (_param : BitVec 24) (s : State) : Host.Outcome State Fault Refusal :=
  .next (raise .reservedCommand s)

/-- RSVD, OP 8 to 15: ReservedCommand, no state changes (R127, R306). -/
def execRsvdOp8to15 (_op _proto : BitVec 4) (_param : BitVec 24) (s : State) : Host.Outcome State Fault Refusal :=
  .next (raise .reservedCommand s)

end Sys2Proof.Machine
end

