-- ==== Sys2Proof/Machine/Formatter.lean ====
section
/-!
DEFINITION. The report formatter with bounded output buffer (spec/47_formatter.md): INIT, APPEND, SCR_APPEND, FINISH, and
the scan loop of the decoders (spec/42_dispatcher.md R172). A decode run works on a `Run`: RB, SCR and the
working registers; everything else it reads stays as the State it started from has it.
-/
namespace Sys2Proof.Machine

/-- What one decode run writes: the Report Buffer, the scratch and the working registers (R162). -/
structure Run where
  rb : List Host.Cell
  scr : List Host.Cell
  work : Work
deriving DecidableEq, Repr, Inhabited

/-- The run's view of a state. -/
def Run.ofState (s : State) : Run := ⟨s.rb, s.scr, s.work⟩

/-- Write the report formatter's registers. -/
def Run.setFmt (v : FmtRegs) : Run → Run
  | ⟨rb, scr, ⟨i, g, x, c, u, _⟩⟩ => ⟨rb, scr, ⟨i, g, x, c, u, v⟩⟩

/-- Write the GPIO edge detector's registers. -/
def Run.setGpio (v : GpioRegs) : Run → Run
  | ⟨rb, scr, ⟨i, _, x, c, u, f⟩⟩ => ⟨rb, scr, ⟨i, v, x, c, u, f⟩⟩

/-- Write the SPI frame decoder's registers. -/
def Run.setSpi (v : SpiRegs) : Run → Run
  | ⟨rb, scr, ⟨i, g, _, c, u, f⟩⟩ => ⟨rb, scr, ⟨i, g, v, c, u, f⟩⟩

/-- Write the I2C frame decoder's registers. -/
def Run.setI2c (v : I2cRegs) : Run → Run
  | ⟨rb, scr, ⟨i, g, x, _, u, f⟩⟩ => ⟨rb, scr, ⟨i, g, x, v, u, f⟩⟩

/-- Write the UART frame decoder's registers. -/
def Run.setUart (v : UartRegs) : Run → Run
  | ⟨rb, scr, ⟨i, g, x, c, _, f⟩⟩ => ⟨rb, scr, ⟨i, g, x, c, v, f⟩⟩

/-- Write the scan index `i` (R40). -/
def Run.setIdx (v : Nat) : Run → Run
  | ⟨rb, scr, ⟨_, g, x, c, u, f⟩⟩ => ⟨rb, scr, ⟨v, g, x, c, u, f⟩⟩

/-- How many bytes of a string of length `n` the bounded append writes at cursor `k`, and by how much it advances
the cursor (R261). -/
def appendWidth (cap reserve k n : Nat) : Nat :=
  if cap - k ≤ reserve then 0 else min n (cap - k - reserve)

/-- The memory after the bounded append of `t` at cursor `k` (R261). -/
def boundedWrite (cap reserve : Nat) (m : List Host.Cell) (k : Nat) (t : Text) : List Host.Cell :=
  writeBytes m k (t.take (appendWidth cap reserve k t.length))

/-- Whether an append drops bytes: the cause of OutputExhausted (R303). -/
def dropsBytes (cap reserve k : Nat) (t : Text) : Bool := decide (appendWidth cap reserve k t.length < t.length)

/-- `INIT` (R260). -/
def initRun (r : Run) : Run := r.setFmt ⟨0, true⟩

/-- The writes of `APPEND(s)` on RB (R261). -/
def appendWrites (p : Params) (t : Text) (r : Run) : Run :=
  { r with
    rb := boundedWrite p.reportCap p.fmtReserve r.rb r.work.fmt.cur t
    work := { r.work with
      fmt := { r.work.fmt with
        cur := r.work.fmt.cur + appendWidth p.reportCap p.fmtReserve r.work.fmt.cur t.length } } }

/-- `APPEND(s)` on RB (R261), raising OutputExhausted when bytes are dropped (R303). -/
def append (p : Params) (t : Text) (r : Run) : Run :=
  if dropsBytes p.reportCap p.fmtReserve r.work.fmt.cur t then raise .outputExhausted (appendWrites p t r)
  else appendWrites p t r

/-- The writes of `SCR_APPEND(s)` (R261, R266). -/
def scrAppendWrites (p : Params) (t : Text) (r : Run) : Run :=
  { r with
    scr := boundedWrite p.scratchCap p.fmtReserve r.scr r.work.gpio.scrCur t
    work := { r.work with
      gpio := { r.work.gpio with
        scrCur := r.work.gpio.scrCur + appendWidth p.scratchCap p.fmtReserve r.work.gpio.scrCur t.length } } }

/-- `SCR_APPEND(s)` (R182, R261), raising OutputExhausted when bytes are dropped (R303). -/
def scrAppend (p : Params) (t : Text) (r : Run) : Run :=
  if dropsBytes p.scratchCap p.fmtReserve r.work.gpio.scrCur t then raise .outputExhausted (scrAppendWrites p t r)
  else scrAppendWrites p t r

/-- `first <- 0` (R45). -/
def clearFirst (r : Run) : Run := r.setFmt { r.work.fmt with first := false }

/-- The comma before an event or a channel entry that is not the first (R185, R205, R228, R246). -/
def appendComma (p : Params) (r : Run) : Run := if r.work.fmt.first then r else append p comma r

/-- Emit one event text: comma if it is not the first, the text, `first <- 0` (R205, R228, R246). -/
def emitEvent (p : Params) (t : Text) (r : Run) : Run := clearFirst (append p t (appendComma p r))

/-- `FINISH` (R264): the newline goes into the reserved tail, whatever the threshold. -/
def finish (r : Run) : Run :=
  { r with
    rb := writeCell blankByte r.rb r.work.fmt.cur newline
    work := { r.work with fmt := { r.work.fmt with cur := r.work.fmt.cur + 1 } } }

/-- Go on with a run whose registers are at hand: the same as `k r`. It makes a scan compute each Sample's step before
the next, so that a long run can be evaluated. -/
def Run.andThen (r : Run) (k : Run → Run) : Run :=
  match r with
  | ⟨rb, scr, ⟨i, g, x, c, u, f⟩⟩ => k ⟨rb, scr, ⟨i, g, x, c, u, f⟩⟩

/-- Apply a per-Sample step at `n` consecutive indices from `i`, with the scan index in its register, which ends at
`i + n` (R40, R172). -/
def scan (f : Nat → Run → Run) (i : Nat) : Nat → Run → Run
  | 0, r => r.setIdx i
  | n + 1, r => (f i (r.setIdx i)).andThen (scan f (i + 1) n)

/-- The scan of a half: a per-Sample step at `1, 2, ..., L-1` (R40). -/
def scanHalf (s : State) (f : Nat → Run → Run) (r : Run) : Run := scan f 1 (s.params.half - 1) r

end Sys2Proof.Machine
end

