-- ==== Sys2Proof/Machine/Gpio.lean ====
section
/-!
DEFINITION. The GPIO edge detector (spec/43_gpio.md): GPIO.SCAN, GPIO.STEP, GPIO.MERGE, and the decoder RUN.GPIO.
`s` is the state the run started from: it gives the parameters and the Samples.
-/
namespace Sys2Proof.Machine

/-- Start of a channel: `scr_cur <- 0 ; has_tr <- 0 ; sep <- 0` (R182). -/
def gpioStart (c : Nat) (r : Run) : Run := r.setGpio ⟨c, false, false, 0⟩

/-- `sep <- 1` (R182). -/
def gpioSetSep (r : Run) : Run := r.setGpio { r.work.gpio with sep := true }

/-- `sep <- 1 ; has_tr <- 1` (R183). -/
def gpioMark (r : Run) : Run := r.setGpio { r.work.gpio with sep := true, hasTr := true }

/-- The index-0 record of channel 0; no other channel has one (R184). -/
def gpioInitialRecord (s : State) (c : Nat) (r : Run) : Run :=
  if c = 0 then gpioSetSep (scrAppend s.params (pairText 0 (level s 0 0)) r) else r

/-- The comma before a record that is not the channel's first (R183). -/
def gpioSeparator (s : State) (r : Run) : Run := if r.work.gpio.sep then scrAppend s.params comma r else r

/-- `GPIO.STEP(c, i)` (R183). -/
def gpioStep (s : State) (c i : Nat) (r : Run) : Run :=
  if transition s i c then gpioMark (scrAppend s.params (pairText i (level s i c)) (gpioSeparator s r)) else r

/-- The bytes accumulated for the channel: `MemRead(SCR:0, scr_cur)` (R185). -/
def scratchText (r : Run) : Text := readBytes r.scr 0 r.work.gpio.scrCur

/-- `GPIO.MERGE(c)` (R185). -/
def gpioMerge (s : State) (c : Nat) (r : Run) : Run :=
  if r.work.gpio.hasTr then
    clearFirst (append s.params chanEnd (append s.params (scratchText r)
      (append s.params (chanKey c) (appendComma s.params r))))
  else r

/-- `GPIO.SCAN(c)` (R182). -/
def gpioScan (s : State) (c : Nat) (r : Run) : Run :=
  gpioMerge s c (scanHalf s (gpioStep s c) (gpioInitialRecord s c (gpioStart c r)))

/-- The channels `c, c+1, ...`, `n` of them, in ascending order (R180). -/
def gpioChannels (s : State) (c : Nat) : Nat → Run → Run
  | 0, r => r
  | n + 1, r => gpioChannels s (c + 1) n (gpioScan s c r)

/-- After the run the scratch holds any value (spec/93_implementation_defined.md U2): nothing in the run reads it again. -/
def forgetScratch (s : State) (r : Run) : Run :=
  { r with scr := forgetFrom (Config.freeScratchByte s.runCount) 0 s.params.scratchCap r.scr }

/-- The decoder of RUN.GPIO (R180). -/
def decodeGpio (s : State) (r : Run) : Run :=
  forgetScratch s (append s.params tailGpio (gpioChannels s 0 channelCount (append s.params headGpio r)))

end Sys2Proof.Machine
end

