-- ==== Sys2Proof/Machine/I2c.lean ====
section
/-!
DEFINITION. The I2C frame decoder (spec/45_i2c.md): I2C.INIT, I2C.STEP, I2C.EMIT, and the decoder RUN.I2C.
-/
namespace Sys2Proof.Machine

/-- `I2C.INIT` (R221). -/
def i2cInit (r : Run) : Run := r.setI2c ⟨.idle, 0#8, 0⟩

/-- START condition at index `i` (R222). -/
def i2cStartSeen (s : State) (i : Nat) : Bool :=
  stableHigh s i s.params.chI2cScl && fallingEdge s i s.params.chI2cSda

/-- STOP condition at index `i` (R223). -/
def i2cStopSeen (s : State) (i : Nat) : Bool :=
  stableHigh s i s.params.chI2cScl && risingEdge s i s.params.chI2cSda

/-- `I2C.EMIT(text)` (R228). -/
def i2cEmit (s : State) (t : Text) (r : Run) : Run := emitEvent s.params t r

/-- START re-enters Data, STOP returns to Idle, in every state (R222, R223). -/
def i2cConditions (s : State) (i : Nat) (r : Run) : Run :=
  if i2cStartSeen s i then (i2cEmit s (i2cStartText i) r).setI2c ⟨.data, 0#8, 0⟩
  else if i2cStopSeen s i then (i2cEmit s (i2cStopText i) r).setI2c { r.work.i2c with st := .idle }
  else r

/-- One data bit on a clock rising edge in Data: the eighth emits the byte and moves to Ack (R224). -/
def i2cDataBit (s : State) (i : Nat) (r : Run) : Run :=
  let acc := shiftIn r.work.i2c.acc (level s i s.params.chI2cSda)
  if r.work.i2c.bitcnt = 7 then (i2cEmit s (i2cDataText i acc.toNat) r).setI2c ⟨.ack, acc, 0⟩
  else r.setI2c ⟨.data, acc, r.work.i2c.bitcnt + 1⟩

/-- The acknowledgement bit on a clock rising edge in Ack (R225). -/
def i2cAckBit (s : State) (i : Nat) (r : Run) : Run :=
  (i2cEmit s (i2cAckText i (ackFlag (level s i s.params.chI2cSda))) r).setI2c ⟨.data, 0#8, 0⟩

/-- Clock rising edge, by the state: nothing in Idle (R224, R225). -/
def i2cClock (s : State) (i : Nat) (r : Run) : Run :=
  if risingEdge s i s.params.chI2cScl then
    match r.work.i2c.st with
    | .idle => r
    | .data => i2cDataBit s i r
    | .ack => i2cAckBit s i r
  else r

/-- `I2C.STEP(i)`: the conditions, then the clock; at most one of them fires (R227). -/
def i2cStep (s : State) (i : Nat) (r : Run) : Run := i2cClock s i (i2cConditions s i r)

/-- The decoder of RUN.I2C (R220). -/
def decodeI2c (s : State) (r : Run) : Run :=
  append s.params tailEvents (scanHalf s (i2cStep s) (i2cInit (append s.params headI2c r)))

end Sys2Proof.Machine
end

