-- ==== Sys2Proof/Machine/Spi.lean ====
section
/-!
DEFINITION. The SPI frame decoder (spec/44_spi.md): SPI.INIT, SPI.STEP, SPI.EMIT, and the decoder RUN.SPI. It is fixed at
mode 0 and reads no `snap` field (R200).
-/
namespace Sys2Proof.Machine

/-- `SPI.INIT` (R201). -/
def spiInit (r : Run) : Run := r.setSpi ⟨.idle, 0, 0#8, 0#8, 0⟩

/-- Chip-select edges on the registers: a fall enters Transfer and clears the counter and the accumulators (R202), a
rise returns to Idle (R203). -/
def spiSelect (s : State) (i : Nat) (x : SpiRegs) : SpiRegs :=
  if fallingEdge s i s.params.chSpiCs then { x with st := .transfer, bitcnt := 0, mosiAcc := 0#8, misoAcc := 0#8 }
  else if risingEdge s i s.params.chSpiCs then { x with st := .idle }
  else x

/-- Shift one bit of each line in; the first bit of a byte sets its timestamp (R204). -/
def spiShift (s : State) (i : Nat) (x : SpiRegs) : SpiRegs :=
  { x with
    ts := if x.bitcnt = 0 then i else x.ts
    mosiAcc := shiftIn x.mosiAcc (level s i s.params.chSpiMosi)
    misoAcc := shiftIn x.misoAcc (level s i s.params.chSpiMiso) }

/-- `SPI.EMIT(ts, m, s)` (R205). -/
def spiEmit (s : State) (x : SpiRegs) (r : Run) : Run :=
  emitEvent s.params (spiEventText x.ts x.mosiAcc.toNat x.misoAcc.toNat) r

/-- Clock rising edge in Transfer: the eighth bit emits the byte (R204). -/
def spiClock (s : State) (i : Nat) (r : Run) : Run :=
  if r.work.spi.st = .transfer ∧ risingEdge s i s.params.chSpiClk then
    let x := spiShift s i r.work.spi
    if x.bitcnt = 7 then (spiEmit s x r).setSpi { x with mosiAcc := 0#8, misoAcc := 0#8, bitcnt := 0 }
    else r.setSpi { x with bitcnt := x.bitcnt + 1 }
  else r

/-- `SPI.STEP(i)`: chip-select first, then the clock in the state it has just produced (R206). -/
def spiStep (s : State) (i : Nat) (r : Run) : Run := spiClock s i (r.setSpi (spiSelect s i r.work.spi))

/-- The decoder of RUN.SPI (R200). -/
def decodeSpi (s : State) (r : Run) : Run :=
  append s.params tailEvents (scanHalf s (spiStep s) (spiInit (append s.params headSpi r)))

end Sys2Proof.Machine
end

