-- ==== Sys2Proof/Machine/Uart.lean ====
section
/-!
DEFINITION. The UART frame decoder (spec/46_uart.md): samples per bit, UART.INIT, UART.STEP, UART.EMIT, and the decoder
RUN.UART.
-/
namespace Sys2Proof.Machine

/-- `spb = SAMPLE_RATE_HZ div snap.uart_baud` (R241). -/
def samplesPerBit (s : State) : Nat := s.params.sampleRate / s.snap.uartBaud.toNat

/-- `spb` and `UART.INIT` (R240, R242). -/
def uartInit (s : State) (r : Run) : Run := r.setUart ⟨.idle, 0#8, 0, 0, 0, samplesPerBit s⟩

/-- `rx` at index `i`. -/
def uartRx (s : State) (i : Nat) : Bool := level s i s.params.chUartRx

/-- Idle: a falling edge is a start bit and schedules the first sample point (R243). -/
def uartIdle (s : State) (i : Nat) (x : UartRegs) : UartRegs :=
  if fallingEdge s i s.params.chUartRx then
    { x with st := .data, ts := i, nxt := i + x.spb + x.spb / 2, acc := 0#8, bitcnt := 0 }
  else x

/-- Data: latch one bit at a sample point, least significant first (R245). -/
def uartData (s : State) (i : Nat) (x : UartRegs) : UartRegs :=
  if x.nxt ≤ i then
    let y := { x with acc := insertBit x.acc (uartRx s i) x.bitcnt, nxt := x.nxt + x.spb }
    if x.bitcnt = 7 then { y with st := .stop, bitcnt := 0 } else { y with bitcnt := x.bitcnt + 1 }
  else x

/-- `UART.EMIT(ts, v, ferr)` (R246); a low stop bit is FramingAnomaly, reported in the event (R304). -/
def uartEmit (s : State) (ts : Nat) (v : Byte) (ferr : Bool) (r : Run) : Run :=
  if ferr then raise .framingAnomaly (emitEvent s.params (uartEventText ts v.toNat ferr) r)
  else emitEvent s.params (uartEventText ts v.toNat ferr) r

/-- Stop: check the stop bit at its sample point, emit, return to Idle (R246). -/
def uartStop (s : State) (i : Nat) (r : Run) : Run :=
  let x := r.work.uart
  if x.nxt ≤ i then (uartEmit s x.ts x.acc (framingError (uartRx s i)) r).setUart { x with st := .idle } else r

/-- `UART.STEP(i)`: exactly one state's rule, by the state on entry (R244). -/
def uartStep (s : State) (i : Nat) (r : Run) : Run :=
  match r.work.uart.st with
  | .idle => r.setUart (uartIdle s i r.work.uart)
  | .data => r.setUart (uartData s i r.work.uart)
  | .stop => uartStop s i r

/-- The decoder of RUN.UART (R240). -/
def decodeUart (s : State) (r : Run) : Run :=
  append s.params tailEvents (scanHalf s (uartStep s) (uartInit s (append s.params headUart r)))

end Sys2Proof.Machine
end

