-- ==== Sys2Proof/Machine/Dispatcher.lean ====
section
/-!
DEFINITION. The decode dispatcher's RUN (spec/42_dispatcher.md R162): INIT, the decoder, FINISH, COMPLETE as one atomic
step, and one meaning for each `TAG4` row of spec/opcode_table.json.
-/
namespace Sys2Proof.Machine

/-- The decoder of RUN.UNK: UnknownProtocolAtDispatch, the diagnostic text (R165, R305). -/
def decodeUnknown (s : State) (r : Run) : Run := raise .unknownProtocolAtDispatch (append s.params unkText r)

/-- What the run writes, from INIT to FINISH (R162). -/
def runResult (decoder : State → Run → Run) (s : State) : Run := finish (decoder s (initRun (Run.ofState s)))

/-- The state after the whole RUN: the run's memories, then COMPLETE with the length the cursor gives (R162, R164). -/
def afterRun (decoder : State → Run → Run) (s : State) : State :=
  complete (runResult decoder s).work.fmt.cur
    { s with rb := (runResult decoder s).rb, scr := (runResult decoder s).scr }

/-- RUN with a given decoder: enabled while a run is in flight; where it is not enabled the agent holds and the step
has no effect (R9, R162). The parameters must be those of a legal instance (R5, spec/93 U11). -/
def runWith (decoder : State → Run → Run) (s : State) : Host.Outcome State Fault Refusal :=
  if s.params.wf then (if runEnabled s then .next (afterRun decoder s) else .next s) else .refused .illegalInstance

/-- RUN.GPIO (R180, R162). -/
def execRunGpio (s : State) : Host.Outcome State Fault Refusal := runWith decodeGpio s

/-- RUN.SPI (R200, R162). -/
def execRunSpi (s : State) : Host.Outcome State Fault Refusal := runWith decodeSpi s

/-- RUN.I2C (R220, R162). -/
def execRunI2c (s : State) : Host.Outcome State Fault Refusal := runWith decodeI2c s

/-- RUN.UART (R240, R162). -/
def execRunUart (s : State) : Host.Outcome State Fault Refusal := runWith decodeUart s

/-- RUN.UNK, tags 4 to 7 (R165, R162). -/
def execRunUnkLow (_tag : Tag) (s : State) : Host.Outcome State Fault Refusal := runWith decodeUnknown s

/-- RUN.UNK, tags 8 to 15 (R165, R162). -/
def execRunUnkHigh (_tag : Tag) (s : State) : Host.Outcome State Fault Refusal := runWith decodeUnknown s

end Sys2Proof.Machine
end

