-- ==== Sys2Proof/Machine/Dispatch.lean ====
section
/-! DEFINITION. The meaning of every encoded operation, one arm per row of spec/opcode_table.json. -/

namespace Sys2Proof.Machine

def exec (i : Instr) (s : State) : Host.Outcome State Fault Refusal :=
  match i with
  | .cfgGpio param => Sys2Proof.Machine.execCfgGpio param s
  | .cfgSpi ignored mode => Sys2Proof.Machine.execCfgSpi ignored mode s
  | .cfgI2c param => Sys2Proof.Machine.execCfgI2c param s
  | .cfgUart baud => Sys2Proof.Machine.execCfgUart baud s
  | .cfgUnkLow proto param => Sys2Proof.Machine.execCfgUnkLow proto param s
  | .cfgUnkHigh proto param => Sys2Proof.Machine.execCfgUnkHigh proto param s
  | .start proto param => Sys2Proof.Machine.execStart proto param s
  | .rsvdOp0 proto param => Sys2Proof.Machine.execRsvdOp0 proto param s
  | .rsvdOp3 proto param => Sys2Proof.Machine.execRsvdOp3 proto param s
  | .rsvdOp4to7 op proto param => Sys2Proof.Machine.execRsvdOp4to7 op proto param s
  | .rsvdOp8to15 op proto param => Sys2Proof.Machine.execRsvdOp8to15 op proto param s
  | .runGpio => Sys2Proof.Machine.execRunGpio s
  | .runSpi => Sys2Proof.Machine.execRunSpi s
  | .runI2c => Sys2Proof.Machine.execRunI2c s
  | .runUart => Sys2Proof.Machine.execRunUart s
  | .runUnkLow tag => Sys2Proof.Machine.execRunUnkLow tag s
  | .runUnkHigh tag => Sys2Proof.Machine.execRunUnkHigh tag s

end Sys2Proof.Machine
end

