-- ==== Sys2Proof/Machine/Turns.lean ====
section
/-!
DEFINITION. The steps with no encoding (spec/30_encoding.md R104) and the turn of each agent (spec/41_arbiter.md R140):
TICK, TAKE, WAKE, RESET, a command word, a RUN, and the placing of a fetched operation where the next step takes it.
-/
namespace Sys2Proof.Machine

/-- Move the write pointer past the Sample just stored, with the notification and the interlock (R142, R143, R145). -/
def advancePointer (s : State) : State :=
  if s.wrPtr + 1 = s.params.half then notify .first { s with wrPtr := s.params.half }
  else if s.wrPtr + 1 = s.params.bufSize then { notify .second { s with wrPtr := 0 } with trigEn := false }
  else { s with wrPtr := s.wrPtr + 1 }

/-- `TICK(p)` (R142): no effect while the trigger is off. An element at or above `N` does not exist (R60, R71). -/
def tick (pins : Sample) (s : State) : Host.Outcome State Fault Refusal :=
  if s.trigEn then
    if s.wrPtr < s.params.bufSize then .next (advancePointer (storeSample pins s))
    else .fault (.noSuchElement .sb s.wrPtr)
  else .next s

/-- `TAKE` (R128). -/
def takeReport (s : State) : State := { s with rptValid := false }

/-- `WAKE` (R161): where it is not enabled the agent holds and the step has no effect (R9). -/
def wake (s : State) : State := if wakeEnabled s then claimHalf s else s

/-- `RESET` (R340, R341): the control registers and the configuration; the memories and the working registers are not
written (R343). -/
def resetPin (s : State) : State :=
  { s with
    astate := .idle, trigEn := false, noteEn := false, wrPtr := 0, served := false
    sigPending := false, sigHalf := .first, decBusy := false, decHalf := .first
    cfg := Cfg.atReset s.params, snap := Cfg.atReset s.params, rptValid := false, rptLen := 0 }

/-- A command word presented on the command port (R120). -/
def command (w : Word32) (s : State) : Host.Outcome State Fault Refusal := exec (decode (.cmd32 w)) s

/-- `RUN` (R162): the decoder is selected by `snap.proto` (R101). Where it is not enabled it has no effect (R9). -/
def runTurn (s : State) : Host.Outcome State Fault Refusal :=
  if runEnabled s then exec (decode (.tag4 s.snap.proto)) s else .next s

/-- One turn of one agent (R140). -/
def takeTurn (t : Turn) (s : State) : Host.Outcome State Fault Refusal :=
  match t with
  | .cmd w => command w s
  | .take => .next (takeReport s)
  | .tick pins => tick pins s
  | .wake => .next (wake s)
  | .run => runTurn s
  | .reset => .next (resetPin s)

/-- What DISPATCH does when no other turn is scheduled: its one possible step, or it holds (R140, R160). -/
def dispatchTurn (s : State) : Host.Outcome State Fault Refusal :=
  if runEnabled s then runTurn s else .next (wake s)

/-- The next turn of the agenda; when the environment schedules nothing more, DISPATCH moves. -/
def nextTurn (s : State) : Host.Outcome State Fault Refusal :=
  match s.agenda with
  | [] => dispatchTurn s
  | t :: rest => takeTurn t { s with agenda := rest }

/-- Put an operation where the very next step runs it: a command word is presented on the command port next; a tag is
the `snap.proto` of a run in flight, and RUN is next. -/
def placeFetched (f : Fetched) (s : State) : State :=
  match f with
  | .cmd32 w => { s with agenda := .cmd w :: s.agenda }
  | .tag4 t => { s with agenda := .run :: s.agenda, decBusy := true, snap := { s.snap with proto := t } }

/-- `placeFetched` for a row's bits; a value that is no word and no tag is not placed. -/
def placeRaw (s : State) (nbits w : Nat) : State :=
  match fetchedOf nbits w with
  | .ok f => placeFetched f s
  | .error _ => s

end Sys2Proof.Machine
end

