-- ==== Sys2Proof/Machine/Step.lean ====
section
/-! DEFINITION. One step of LA-CORE (spec/41_arbiter.md R140). -/

namespace Sys2Proof.Machine

/-- One atomic step: the next turn of some agent. -/
def step (s : State) : Host.Outcome State Fault Refusal := nextTurn s

/-- `s` with the operation whose bits are `w` placed where the next step runs it (log entry 5). -/
def State.withFetchWord (s : State) (nbits w : Nat) : State := placeRaw s nbits w

end Sys2Proof.Machine
end

