-- ==== Sys2Proof/Machine/Status.lean ====
section
/-!
DEFINITION. What the host can observe between two steps (spec/10_state.md R49): the status outputs, and the bytes of the
Report while one is ready. Nothing else is host-visible.
-/
namespace Sys2Proof.Machine

/-- The status outputs of R49. -/
structure Status where
  astate : AnalyzerState
  rptValid : Bool
  rptLen : Nat
  cfg : Cfg
  /-- `RB[0 .. rpt_len-1]` while `rpt_valid = 1`; not readable otherwise (R65). -/
  report : Option Text
deriving DecidableEq, Repr

/-- The bytes `RB[0 .. rpt_len-1]` (R62). -/
def reportBytes (s : State) : Text := readBytes s.rb 0 s.rptLen

/-- What the host sees of a state (R49). -/
def statusOf (s : State) : Status where
  astate := s.astate
  rptValid := s.rptValid
  rptLen := s.rptLen
  cfg := s.cfg
  report := if s.rptValid then some (reportBytes s) else none

end Sys2Proof.Machine
end

