-- ==== Sys2Proof/Safety.lean ====
section
/-!
DEFINITION. The terms statements are made in: the closed forms of the Reports (spec/43_gpio.md R186, spec/44_spi.md R208,
spec/45_i2c.md R228, spec/46_uart.md R251, spec/42_dispatcher.md R165), written from the Samples alone and not from the
machine's steps, and the invariants of spec/10_state.md R48.
-/
namespace Sys2Proof.Safety

open Sys2Proof.Machine

/-- `join(",", texts)` (R106). -/
def joinComma : List Text → Text
  | [] => []
  | [t] => t
  | t :: u :: ts => t ++ comma ++ joinComma (u :: ts)

/-- The Report made of a full text: the longest prefix the Report Buffer allows, and the newline (R262). -/
def reportOf (p : Params) (full : Text) : Text := full.take (p.reportCap - p.fmtReserve) ++ [newline]

/-- The indices `1, ..., L-1` of a half. -/
def scanIndices (s : State) : List Nat := List.range' 1 (s.params.half - 1)

/-- `trans(c)` (R186): the transitions of channel `c`, ascending, each with its new level. -/
def gpioTransitions (s : State) (c : Nat) : List (Nat × Bool) :=
  ((scanIndices s).filter fun i => level s i c != level s (i - 1) c).map fun i => (i, level s i c)

/-- `pairs(c)` (R186): channel 0 alone has the index-0 record in front. -/
def gpioPairs (s : State) (c : Nat) : List (Nat × Bool) :=
  if c = 0 then (0, level s 0 0) :: gpioTransitions s 0 else gpioTransitions s c

/-- `scr_text(c)` (R186). -/
def gpioScratchText (s : State) (c : Nat) : Text :=
  (joinComma ((gpioPairs s c).map fun x => pairText x.1 x.2)).take (s.params.scratchCap - s.params.fmtReserve)

/-- `gpio_text` (R106, R186). -/
def gpioText (s : State) : Text :=
  headGpio ++
    joinComma (((List.range channelCount).filter fun c => !(gpioTransitions s c).isEmpty).map fun c =>
      chanKey c ++ gpioScratchText s c ++ chanEnd) ++
    tailGpio

/-- Replay a waveform list on an initial level: the level at index `i` is that of the last pair at or before `i`
(spec/43_gpio.md R187 (1)). -/
def replay (initial : Bool) (pairs : List (Nat × Bool)) (i : Nat) : Bool :=
  pairs.foldl (fun lvl x => if x.1 ≤ i then x.2 else lvl) initial

/-- The number whose bits are given most significant first. -/
def msbFirst (bits : List Bool) : Nat := bits.foldl (fun v b => 2 * v + b.toNat) 0

/-- The number whose bits are given least significant first. -/
def lsbFirst : List Bool → Nat
  | [] => 0
  | b :: bs => b.toNat + 2 * lsbFirst bs

/-- A Decoded Event of the SPI decoder (R205). -/
structure SpiEvent where
  ts : Nat
  mosi : Nat
  miso : Nat
deriving DecidableEq, Repr

/-- One bit seen on an SPI clock rising edge: its index and the two levels. -/
structure SpiBit where
  at_ : Nat
  mosi : Bool
  miso : Bool
deriving DecidableEq, Repr

/-- The event of a whole byte's bits, in order: the timestamp is that of the first (R204). -/
def spiEventOf (bits : List SpiBit) : SpiEvent where
  ts := (bits.map SpiBit.at_).headD 0
  mosi := msbFirst (bits.map SpiBit.mosi)
  miso := msbFirst (bits.map SpiBit.miso)

/-- The SPI events of `n` Samples from index `i`, given whether a transaction is open and the bits of its unfinished
byte: a chip-select fall opens one with no bits, a rise closes it (R202, R203), a clock rise in an open one adds a
bit, and eight bits are an event (R204). -/
def spiEventsFrom (s : State) (i : Nat) : Nat → Bool → List SpiBit → List SpiEvent
  | 0, _, _ => []
  | n + 1, isOpen, bits =>
    let fall := fallingEdge s i s.params.chSpiCs
    let rise := risingEdge s i s.params.chSpiCs
    let nowOpen := fall || (isOpen && !rise)
    let kept := if fall then [] else bits
    if nowOpen && risingEdge s i s.params.chSpiClk then
      let more := kept ++ [⟨i, level s i s.params.chSpiMosi, level s i s.params.chSpiMiso⟩]
      if more.length = 8 then spiEventOf more :: spiEventsFrom s (i + 1) n nowOpen []
      else spiEventsFrom s (i + 1) n nowOpen more
    else spiEventsFrom s (i + 1) n nowOpen kept

/-- The SPI events of the half being decoded, in scan order (R208). -/
def spiEvents (s : State) : List SpiEvent := spiEventsFrom s 1 (s.params.half - 1) false []

/-- `spi_text` (R108). -/
def spiText (s : State) : Text :=
  headSpi ++ joinComma ((spiEvents s).map fun e => spiEventText e.ts e.mosi e.miso) ++ tailEvents

/-- A Decoded Event of the I2C decoder (R222 to R225). -/
inductive I2cEvent where
  | start (ts : Nat)
  | stop (ts : Nat)
  | data (ts value : Nat)
  | ack (ts : Nat) (acked : Bool)
deriving DecidableEq, Repr

/-- The timestamp every I2C event carries (R226). -/
def I2cEvent.ts : I2cEvent → Nat
  | .start ts => ts
  | .stop ts => ts
  | .data ts _ => ts
  | .ack ts _ => ts

/-- `i2c_ev` (R109). -/
def I2cEvent.text : I2cEvent → Text
  | .start ts => i2cStartText ts
  | .stop ts => i2cStopText ts
  | .data ts v => i2cDataText ts v
  | .ack ts a => i2cAckText ts a

/-- The I2C events of `n` Samples from index `i`. The transfer so far is `none` (Idle), or the data bits received since
the last START or acknowledgement; eight of them wait for the acknowledgement clock (R222 to R225). -/
def i2cEventsFrom (s : State) (i : Nat) : Nat → Option (List Bool) → List I2cEvent
  | 0, _ => []
  | n + 1, bits =>
    let scl := level s i s.params.chI2cScl
    let sclBefore := level s (i - 1) s.params.chI2cScl
    let sda := level s i s.params.chI2cSda
    let sdaBefore := level s (i - 1) s.params.chI2cSda
    if scl && sclBefore && sdaBefore && !sda then .start i :: i2cEventsFrom s (i + 1) n (some [])
    else if scl && sclBefore && !sdaBefore && sda then .stop i :: i2cEventsFrom s (i + 1) n none
    else if scl && !sclBefore then
      match bits with
      | none => i2cEventsFrom s (i + 1) n none
      | some bs =>
        if bs.length = 8 then .ack i (!sda) :: i2cEventsFrom s (i + 1) n (some [])
        else if bs.length = 7 then .data i (msbFirst (bs ++ [sda])) :: i2cEventsFrom s (i + 1) n (some (bs ++ [sda]))
        else i2cEventsFrom s (i + 1) n (some (bs ++ [sda]))
    else i2cEventsFrom s (i + 1) n bits

/-- The I2C events of the half being decoded, in scan order (R228). -/
def i2cEvents (s : State) : List I2cEvent := i2cEventsFrom s 1 (s.params.half - 1) none

/-- `i2c_text` (R109). -/
def i2cText (s : State) : Text := headI2c ++ joinComma ((i2cEvents s).map I2cEvent.text) ++ tailEvents

/-- A Decoded Event of the UART decoder (R246). -/
structure UartEvent where
  ts : Nat
  value : Nat
  ferr : Bool
deriving DecidableEq, Repr

/-- The bit period in Samples that decides the sample points: 0 behaves as 1 (R247). -/
def bitPeriod (s : State) : Nat := max 1 (s.params.sampleRate / s.snap.uartBaud.toNat)

/-- The sample point of data bit `k` (0 to 7) of the frame with start edge `e`; `k = 8` is the stop bit (R245, R246). -/
def samplePoint (s : State) (e k : Nat) : Nat := e + bitPeriod s + bitPeriod s / 2 + k * bitPeriod s

/-- The event of the frame with start edge `e` (R245, R246). -/
def uartFrame (s : State) (e : Nat) : UartEvent where
  ts := e
  value := lsbFirst ((List.range 8).map fun k => level s (samplePoint s e k) s.params.chUartRx)
  ferr := !level s (samplePoint s e 8) s.params.chUartRx

/-- The UART events at index `i` and above: the next falling edge starts a frame, the frame is reported if its stop bit
lies in the half, and the search goes on after its stop bit (R243 to R246, R250). The fuel bounds the search. -/
def uartEventsFrom (s : State) : Nat → Nat → List UartEvent
  | 0, _ => []
  | fuel + 1, i =>
    if s.params.half ≤ i then []
    else if level s (i - 1) s.params.chUartRx && !level s i s.params.chUartRx then
      if samplePoint s i 8 < s.params.half then uartFrame s i :: uartEventsFrom s fuel (samplePoint s i 8 + 1) else []
    else uartEventsFrom s fuel (i + 1)

/-- The UART events of the half being decoded, in scan order (R251). -/
def uartEvents (s : State) : List UartEvent := uartEventsFrom s s.params.half 1

/-- `uart_text` (R111). -/
def uartText (s : State) : Text :=
  headUart ++ joinComma ((uartEvents s).map fun e => uartEventText e.ts e.value e.ferr) ++ tailEvents

/-- The full text of the run in flight, by the tag in `snap` (R101, R162). -/
def fullText (s : State) : Text :=
  if s.snap.proto = 0#4 then gpioText s
  else if s.snap.proto = 1#4 then spiText s
  else if s.snap.proto = 2#4 then i2cText s
  else if s.snap.proto = 3#4 then uartText s
  else unkText

/-- Every Sample of half 0 has been written since the last arm, in terms of the write pointer: it has left half 0, or it
has wrapped and the interlock has stopped the trigger (R145, R48 item 4). -/
abbrev FirstHalfWritten (s : State) : Prop :=
  s.params.half ≤ s.wrPtr ∨ (s.trigEn = false ∧ s.wrPtr = 0)

/-- The control invariants of R48 (items 1 to 6 as conditions on one state), with what makes them inductive. -/
structure ControlInv (s : State) : Prop where
  legal : s.params.wf = true
  /-- Item 1. -/
  idleQuiet : s.astate = .idle →
    s.trigEn = false ∧ s.noteEn = false ∧ s.sigPending = false ∧ s.decBusy = false
  /-- Item 2. -/
  pendingServed : s.sigPending = true → s.served = true ∧ s.astate = .capturing ∧ s.decBusy = false
  /-- Item 3. -/
  busyExclusive : s.decBusy = true →
    s.astate = .capturing ∧ s.served = true ∧ s.sigPending = false ∧ s.rptValid = false
  /-- Item 4, the signal. -/
  pendingFirst : s.sigPending = true → s.sigHalf = .first ∧ FirstHalfWritten s
  /-- Item 4, the run in flight. -/
  busyFirst : s.decBusy = true → s.decHalf = .first ∧ FirstHalfWritten s
  /-- Item 5. -/
  trigCapturing : s.trigEn = true → s.astate = .capturing ∧ s.noteEn = true
  /-- Item 6. -/
  unservedFilling : s.noteEn = true → s.served = false → s.wrPtr < s.params.half ∧ s.trigEn = true
  /-- Once served, an enabled trigger writes half 1. -/
  servedSecondHalf : s.served = true → s.trigEn = true → s.params.half ≤ s.wrPtr
  /-- `wr_ptr` is an index of SB (R24). -/
  pointerInRange : s.wrPtr < s.params.bufSize
  /-- `sig_half` never names the second half (R144). -/
  neverSecond : s.sigHalf = .first ∧ s.decHalf = .first

/-- The indices of SB written since the last arm, latest first, after one more step from `s`: an accepted START begins a new
list (R126, R141), a TICK with the trigger on adds the write pointer (R142), any other step writes no Sample. -/
def writtenAfter (s : State) (written : List Nat) : List Nat :=
  match s.agenda.head? with
  | some (.cmd w) => if fieldOp w = 2#4 ∧ s.astate = .idle then [] else written
  | some (.tick _) => if s.trigEn then s.wrPtr :: written else written
  | some .take => written
  | some .wake => written
  | some .run => written
  | some .reset => written
  | none => written

/-- What R48 says of the Samples written since the last arm, `written` being their indices. -/
structure SampleHistory (s : State) (written : List Nat) : Prop where
  /-- Item 7: no index has been written twice. -/
  once : written.Nodup
  /-- Every index is one of SB (R71). -/
  inRange : ∀ a ∈ written, a < s.params.bufSize
  /-- While the trigger is on, exactly the indices below the pointer have been written (R147). -/
  filling : s.trigEn = true → ∀ a, a ∈ written ↔ a < s.wrPtr
  /-- Item 4: all of half 0 has been written when it awaits the dispatcher or is being decoded. -/
  halfWritten : s.sigPending = true ∨ s.decBusy = true → ∀ a, a < s.params.half → a ∈ written

/-- Item 8 of R48: a ready Report has a length in range and ends in the newline. -/
abbrev ReportInv (s : State) : Prop :=
  s.rptValid = true →
    1 ≤ s.rptLen ∧ s.rptLen ≤ s.params.reportCap ∧ readCell blankByte s.rb (s.rptLen - 1) = newline

/-- The baud rates held are never 0, and a protocol tag above 3 can only be the reset one (R29, R31). -/
structure CfgInv (s : State) : Prop where
  legal : s.params.wf = true
  cfgBaud : s.cfg.uartBaud ≠ 0#24
  snapBaud : s.snap.uartBaud ≠ 0#24
  cfgProto : s.cfg.proto ≤ 3#4 ∨ s.cfg.proto = s.params.protoReset
  snapProto : s.snap.proto ≤ 3#4 ∨ s.snap.proto = s.params.protoReset

/-- Every Sample stored is a `SAMPLE_W`-bit number (R34, R93). -/
abbrev SamplesFit (s : State) : Prop := ∀ c ∈ s.sb, c.2 < 2 ^ s.params.sampleWidth

/-- The three memories have their canonical form and hold only elements that exist (R60, R71). -/
structure MemoryInv (s : State) : Prop where
  legal : s.params.wf = true
  sbWf : Memory.wf blankSample s.sb
  rbWf : Memory.wf blankByte s.rb
  scrWf : Memory.wf blankByte s.scr
  sbBound : ∀ c ∈ s.sb, c.1 < s.params.bufSize
  rbBound : ∀ c ∈ s.rb, c.1 < s.params.reportCap
  scrBound : ∀ c ∈ s.scr, c.1 < s.params.scratchCap
  samplesFit : SamplesFit s

/-- The operations that are a RUN (R162). -/
def isRun : Instr → Bool
  | .runGpio => true
  | .runSpi => true
  | .runI2c => true
  | .runUart => true
  | .runUnkLow _ => true
  | .runUnkHigh _ => true
  | .cfgGpio _ => false
  | .cfgSpi _ _ => false
  | .cfgI2c _ => false
  | .cfgUart _ => false
  | .cfgUnkLow _ _ => false
  | .cfgUnkHigh _ _ => false
  | .start _ _ => false
  | .rsvdOp0 _ _ => false
  | .rsvdOp3 _ _ => false
  | .rsvdOp4to7 _ _ _ => false
  | .rsvdOp8to15 _ _ _ => false

/-- COMPLETE (R164): `t` is `s` with a Report handed over, disarmed, Idle and with no run in flight. The two memories a run
writes, the Report's length, and the working registers and the model's run counter are left to `t`; every other
field is as in `s`. -/
def HandedOver (s t : State) : Prop :=
  t = { s with
    rb := t.rb, scr := t.scr, work := t.work, runCount := t.runCount, rptLen := t.rptLen
    rptValid := true, trigEn := false, noteEn := false, astate := .idle, decBusy := false }

/-- DISPATCH moves at the next step: its RUN turn is scheduled, or nothing is (R140). -/
abbrev dispatchRuns (s : State) : Prop := s.agenda.head? = some .run ∨ s.agenda = []

end Sys2Proof.Safety
end

