-- ==== Sys2Proof/Certificates/Slice0/Obligations.lean ====
section
/-!
DEFINITION. The statements for the provers. Each docstring names the rule of spec/ it formalises.
-/

open Sys2Proof Sys2Proof.Machine Sys2Proof.Safety

/-! Encodings (spec/30_encoding.md) -/

/-- R91, R100, R101: decoding the word or tag of a well-formed instruction gives the instruction, for every value of every
field, the ignored bits among them. -/
def Obligations.DecodeOfEncode : Prop := ∀ i : Instr, i.wf = true → decode (encode i) = i

/-- R100 and R101, decoding is total: every word and every tag is the encoding of the well-formed instruction it decodes
to. -/
def Obligations.EncodeOfDecode : Prop := ∀ f : Fetched, encode (decode f) = f ∧ (decode f).wf = true

/-- R100: the eleven rows are disjoint and cover all words, and the row a word selects is that of its instruction. -/
def Obligations.CommandRowsPartition : Prop :=
  ∀ w : Word32, ∃ k row, (decode (.cmd32 w)).cmdRow = some k ∧ cmdTable[k]? = some row ∧ row.selects w = true ∧
    ∀ j other, cmdTable[j]? = some other → other.selects w = true → j = k

/-- R101: the tag patterns `0000`, `0001`, `0010`, `0011`, `01tt`, `1ttt`. -/
def Obligations.TagPatternsDecode : Prop :=
  decode (.tag4 0b0000#4) = .runGpio ∧ decode (.tag4 0b0001#4) = .runSpi ∧ decode (.tag4 0b0010#4) = .runI2c ∧
    decode (.tag4 0b0011#4) = .runUart ∧
    (∀ t : BitVec 2, decode (.tag4 (0b01#2 ++ t)) = .runUnkLow (0b01#2 ++ t)) ∧
    (∀ t : BitVec 3, decode (.tag4 (0b1#1 ++ t)) = .runUnkHigh (0b1#1 ++ t))

/-- R91, R94, R95, R100: words written out from the spec's tables decode to the operations they stand for. -/
def Obligations.WrittenWordsDecode : Prop :=
  decode (.cmd32 0x10ABCDEF#32) = .cfgGpio 0xABCDEF#24 ∧ decode (.cmd32 0x11000003#32) = .cfgSpi 0#22 3#2 ∧
    decode (.cmd32 0x13002580#32) = .cfgUart 9600#24 ∧ decode (.cmd32 0x17000000#32) = .cfgUnkLow 7#4 0#24 ∧
    decode (.cmd32 0x18000000#32) = .cfgUnkHigh 8#4 0#24 ∧ decode (.cmd32 0x20000000#32) = .start 0#4 0#24 ∧
    decode (.cmd32 0xFFFFFFFF#32) = .rsvdOp8to15 15#4 15#4 0xFFFFFF#24

/-! The step (spec/41_arbiter.md R140) -/

/-- R120, R140, R162, with the model's own choice of log entry 6 (that the order of the agents is the agenda, that a step
removes its head, and that with an empty agenda DISPATCH moves): a step whose turn is a command word runs the instruction the word decodes to; a step whose turn is
RUN, or that has no turn scheduled, with a run in flight, runs the instruction the snapshot's tag decodes to. Every other
scheduled turn is the effect of that turn. The agenda loses the turn taken and nothing else is added around `exec`. -/
def Obligations.StepRunsDecoded : Prop :=
  (∀ s w rest, s.agenda = .cmd w :: rest → step s = exec (decode (.cmd32 w)) { s with agenda := rest }) ∧
    (∀ s rest, s.agenda = .run :: rest → s.decBusy = true →
      step s = exec (decode (.tag4 s.snap.proto)) { s with agenda := rest }) ∧
    (∀ s, s.agenda = [] → s.decBusy = true → step s = exec (decode (.tag4 s.snap.proto)) s) ∧
    (∀ s u rest, s.agenda = u :: rest → step s = takeTurn u { s with agenda := rest })

/-- The model's own placing of an operation (log entry 5): the very next step runs the word or tag placed. -/
def Obligations.PlacedOperationRunsNext : Prop :=
  (∀ (s : State) (w : Nat), w < 2 ^ 32 → step (s.withFetchWord 32 w) = exec (decode (.cmd32 (BitVec.ofNat 32 w))) s) ∧
    (∀ (s : State) (t : Nat), t < 2 ^ 4 →
      step (s.withFetchWord 8 t) =
        exec (decode (.tag4 (BitVec.ofNat 4 t)))
          { s with decBusy := true, snap := { s.snap with proto := BitVec.ofNat 4 t } })

/-- R161: WAKE consumes the signal and snapshots the configuration when it is enabled, and is a hold otherwise (R9). That WAKE
is a turn of the agenda, and is what DISPATCH takes when nothing is scheduled, is the model's own choice (log entry 6). -/
def Obligations.WakeSnapshotsConfiguration : Prop :=
  (∀ s rest, s.agenda = .wake :: rest → s.sigPending = true → s.rptValid = false → s.decBusy = false →
    step s = .next { s with
      agenda := rest, sigPending := false, decHalf := s.sigHalf, snap := s.cfg, decBusy := true }) ∧
    (∀ s rest, s.agenda = .wake :: rest → (s.sigPending = false ∨ s.rptValid = true ∨ s.decBusy = true) →
      step s = .next { s with agenda := rest }) ∧
    (∀ s, s.agenda = [] → s.sigPending = true → s.rptValid = false → s.decBusy = false →
      step s = .next { s with sigPending := false, decHalf := s.sigHalf, snap := s.cfg, decBusy := true }) ∧
    (∀ s, s.agenda = [] → s.decBusy = false → (s.sigPending = false ∨ s.rptValid = true) → step s = .next s)

/-! Host commands (spec/40_commands.md) -/

/-- R121: CFG.GPIO writes `cfg.proto` and nothing else, in every state. -/
def Obligations.CfgGpioSelectsGpio : Prop :=
  ∀ param s, exec (.cfgGpio param) s = .next { s with cfg := { s.cfg with proto := 0#4 } }

/-- R122: CFG.SPI writes `cfg.proto` and `cfg.spi_mode` and nothing else. -/
def Obligations.CfgSpiStoresMode : Prop :=
  ∀ ignored mode s, exec (.cfgSpi ignored mode) s = .next { s with cfg := { s.cfg with proto := 1#4, spiMode := mode } }

/-- R123: CFG.I2C writes `cfg.proto` and nothing else. -/
def Obligations.CfgI2cSelectsI2c : Prop :=
  ∀ param s, exec (.cfgI2c param) s = .next { s with cfg := { s.cfg with proto := 2#4 } }

/-- R124: CFG.UART writes `cfg.proto`, and `cfg.uart_baud` unless the baud given is 0. -/
def Obligations.CfgUartStoresBaud : Prop :=
  (∀ baud s, baud ≠ 0#24 →
    exec (.cfgUart baud) s = .next { s with cfg := { s.cfg with proto := 3#4, uartBaud := baud } }) ∧
    (∀ s, exec (.cfgUart 0#24) s = .next { s with cfg := { s.cfg with proto := 3#4 } })

/-- R125: CFG.UNK changes nothing, whatever `PROTO` of its rows and whatever `PARAM`. -/
def Obligations.CfgUnkChangesNothing : Prop :=
  ∀ proto param s, exec (.cfgUnkLow proto param) s = .next s ∧ exec (.cfgUnkHigh proto param) s = .next s

/-- R126, with R141: START arms and goes Capturing when Idle; when Capturing it changes nothing. -/
def Obligations.StartArmsWhenIdle : Prop :=
  (∀ proto param s, s.astate = .idle →
    exec (.start proto param) s = .next { s with
      astate := .capturing, wrPtr := 0, trigEn := true, noteEn := true, served := false }) ∧
    (∀ proto param s, s.astate = .capturing → exec (.start proto param) s = .next s)

/-- R127: a reserved word changes nothing. -/
def Obligations.RsvdChangesNothing : Prop :=
  ∀ op proto param s, exec (.rsvdOp0 proto param) s = .next s ∧ exec (.rsvdOp3 proto param) s = .next s ∧
    exec (.rsvdOp4to7 op proto param) s = .next s ∧ exec (.rsvdOp8to15 op proto param) s = .next s

/-- R128: TAKE empties the slot and changes nothing else. -/
def Obligations.TakeEmptiesSlot : Prop :=
  ∀ s rest, s.agenda = .take :: rest → step s = .next { s with agenda := rest, rptValid := false }

/-! Capture side (spec/41_arbiter.md) -/

/-- R143: the first notification after an arm posts; every other one is dropped. -/
def Obligations.NotifyPostsOnce : Prop :=
  (∀ h s, s.noteEn = true → s.served = false →
    notify h s = { s with sigPending := true, sigHalf := h, served := true }) ∧
    (∀ h s, (s.noteEn = false ∨ s.served = true) → notify h s = s)

/-- R142, with the interlock of R145: a TICK with the trigger on stores the Sample at the write pointer and nowhere else,
then moves the pointer, notifying at the end of each half and stopping the trigger at the wrap; with the trigger off it
changes nothing. The operand is a `SAMPLE_W`-bit number, as R142 has it. -/
def Obligations.TickStoresAndAdvances : Prop :=
  (∀ s pins, s.trigEn = false → takeTurn (.tick pins) s = .next s) ∧
    (∀ s pins, MemoryInv s → pins < 2 ^ s.params.sampleWidth → s.trigEn = true → s.wrPtr < s.params.bufSize →
      ∃ t, takeTurn (.tick pins) s = .next t ∧
        (∀ a, readCell blankSample t.sb a =
          if a = s.wrPtr then pins else readCell blankSample s.sb a) ∧
        (s.wrPtr + 1 = s.params.half → t = notify .first { s with sb := t.sb, wrPtr := s.params.half }) ∧
        (s.wrPtr + 1 = s.params.bufSize →
          t = { notify .second { s with sb := t.sb, wrPtr := 0 } with trigEn := false }) ∧
        (s.wrPtr + 1 ≠ s.params.half → s.wrPtr + 1 ≠ s.params.bufSize →
          t = { s with sb := t.sb, wrPtr := s.wrPtr + 1 }))

/-! Reset (spec/70_reset_and_hazards.md, spec/10_state.md R50) -/

/-- R340: RESET in any state: the control registers and the configuration take their reset values; the memories, and what
the model holds besides the spec's state, stay. -/
def Obligations.ResetRestoresControl : Prop :=
  ∀ s rest, s.agenda = .reset :: rest →
    step s = .next { s with
      agenda := rest, astate := .idle, trigEn := false, noteEn := false, wrPtr := 0, served := false
      sigPending := false, sigHalf := .first, decBusy := false, decHalf := .first
      cfg := ⟨s.params.protoReset, s.params.spiModeReset, s.params.uartBaudReset⟩
      snap := ⟨s.params.protoReset, s.params.spiModeReset, s.params.uartBaudReset⟩
      rptValid := false, rptLen := 0 }

/-- R50: the control registers after reset, in the machine the host starts and in that of every instance (the memories
and working registers are unspecified and are not mentioned; which instance the host starts is log entry 1). -/
def Obligations.ResetControlValues : Prop :=
  State.reset = State.resetOf Params.recommended ∧
    ∀ p, let s := State.resetOf p
      s.astate = .idle ∧ s.trigEn = false ∧ s.noteEn = false ∧ s.wrPtr = 0 ∧ s.served = false ∧ s.sigPending = false ∧
        s.sigHalf = .first ∧ s.decBusy = false ∧ s.decHalf = .first ∧ s.rptValid = false ∧ s.rptLen = 0 ∧
        s.cfg = ⟨p.protoReset, p.spiModeReset, p.uartBaudReset⟩ ∧ s.snap = s.cfg ∧ s.params = p

/-- The model's own choice (log entry 9) for what R5 and spec/93 U11 say of an illegal instance, that it is not this block: it
has no machine, a legal one starts at its reset state, and a RUN of illegal parameters is refused by name. -/
def Obligations.IllegalInstanceRefused : Prop :=
  (∀ p : Params, p.wf = false → State.boot p = none) ∧
    (∀ p : Params, p.wf = true → State.boot p = some (State.resetOf p)) ∧
    (∀ i s, isRun i = true → s.params.wf = false → exec i s = .refused .illegalInstance)

/-! The report formatter (spec/47_formatter.md) -/

/-- R107: the recursion that defines `dec`. -/
def Obligations.DecimalSpelling : Prop :=
  ∀ n, dec n = if n < 10 then [BitVec.ofNat 8 (0x30 + n)] else dec (n / 10) ++ dec (n % 10)

/-- R261: a bounded append writes what fits above the cursor and advances the cursor by as much, in RB and in SCR, and
changes nothing else of the run. -/
def Obligations.AppendWritesWhatFits : Prop :=
  (∀ (p : Params) (t : Text) (r : Run), Memory.wf blankByte r.rb →
    let k := r.work.fmt.cur
    let w := if p.reportCap - k ≤ p.fmtReserve then 0 else min t.length (p.reportCap - k - p.fmtReserve)
    append p t r = { r with
      rb := (append p t r).rb, work := { r.work with fmt := { r.work.fmt with cur := k + w } } } ∧
      ∀ a, readCell blankByte (append p t r).rb a =
        if k ≤ a ∧ a < k + w then t.getD (a - k) blankByte else readCell blankByte r.rb a) ∧
    (∀ (p : Params) (t : Text) (r : Run), Memory.wf blankByte r.scr →
      let k := r.work.gpio.scrCur
      let w := if p.scratchCap - k ≤ p.fmtReserve then 0 else min t.length (p.scratchCap - k - p.fmtReserve)
      scrAppend p t r = { r with
        scr := (scrAppend p t r).scr, work := { r.work with gpio := { r.work.gpio with scrCur := k + w } } } ∧
        ∀ a, readCell blankByte (scrAppend p t r).scr a =
          if k ≤ a ∧ a < k + w then t.getD (a - k) blankByte else readCell blankByte r.scr a)

/-- R262: what any sequence of appends leaves is a prefix of everything appended, and after FINISH that prefix and the
newline; the same for SCR from a cursor of 0, without FINISH. -/
def Obligations.AppendsKeepPrefix : Prop :=
  (∀ (p : Params) (ts : List Text) (r : Run), Memory.wf blankByte r.rb →
    let q := ts.foldl (fun x t => append p t x) (initRun r)
    q.work.fmt.cur = min (p.reportCap - p.fmtReserve) ts.flatten.length ∧
      readBytes q.rb 0 q.work.fmt.cur = ts.flatten.take (p.reportCap - p.fmtReserve) ∧
      (finish q).work.fmt.cur = q.work.fmt.cur + 1 ∧
      readBytes (finish q).rb 0 (finish q).work.fmt.cur = reportOf p ts.flatten) ∧
    (∀ (p : Params) (ts : List Text) (r : Run), Memory.wf blankByte r.scr → r.work.gpio.scrCur = 0 →
      let q := ts.foldl (fun x t => scrAppend p t x) r
      q.work.gpio.scrCur = min (p.scratchCap - p.fmtReserve) ts.flatten.length ∧
        readBytes q.scr 0 q.work.gpio.scrCur = ts.flatten.take (p.scratchCap - p.fmtReserve))

/-- R264: FINISH writes the newline at the cursor and nowhere else, and advances the cursor. -/
def Obligations.FinishWritesNewline : Prop :=
  ∀ r : Run, Memory.wf blankByte r.rb →
    finish r = { r with
      rb := (finish r).rb, work := { r.work with fmt := { r.work.fmt with cur := r.work.fmt.cur + 1 } } } ∧
      ∀ a, readCell blankByte (finish r).rb a = if a = r.work.fmt.cur then 0x0A#8 else readCell blankByte r.rb a

/-- R265, with the fourth oracle of spec/95: after every RUN the Report has 2 to `REPORT_CAP - FMT_RESERVE + 1` bytes, that
is at most `REPORT_CAP`, its last byte is the newline, no other byte of it is, and nothing is written at index `REPORT_CAP` or
above. -/
def Obligations.ReportEndsInNewline : Prop :=
  ∀ i s, isRun i = true → MemoryInv s → s.decBusy = true →
    ∃ t, exec i s = .next t ∧ 2 ≤ t.rptLen ∧ t.rptLen ≤ s.params.reportCap - s.params.fmtReserve + 1 ∧
      t.rptLen ≤ s.params.reportCap ∧ readCell blankByte t.rb (t.rptLen - 1) = 0x0A#8 ∧
      (∀ a, a < t.rptLen - 1 → readCell blankByte t.rb a ≠ 0x0A#8) ∧
      ∀ a, s.params.reportCap ≤ a → readCell blankByte t.rb a = readCell blankByte s.rb a

/-! The decode dispatcher's RUN (spec/42_dispatcher.md) -/

/-- R164, with the frame of R162 (and R261, R264: where RB and SCR are written): every RUN in flight completes: a Report is
ready, the block is disarmed and Idle, and nothing else changes but RB below its capacity and, for RUN.GPIO alone, SCR
below its capacity. Of the bytes of RB at the Report's length and above, and of SCR after RUN.GPIO, nothing is said:
they hold any value (R67, spec/93 U2 and U3; the model's free values, log entry 13). -/
def Obligations.RunHandsOver : Prop :=
  ∀ i s, isRun i = true → MemoryInv s → s.decBusy = true →
    ∃ t, exec i s = .next t ∧ HandedOver s t ∧
      (∀ a, s.params.reportCap ≤ a → readCell blankByte t.rb a = readCell blankByte s.rb a) ∧
      (i ≠ .runGpio → t.scr = s.scr) ∧
      (∀ a, s.params.scratchCap ≤ a →
        readCell blankByte t.scr a = readCell blankByte s.scr a)

/-- R162 and R9: with no run in flight RUN has no effect. -/
def Obligations.RunHeldWhenNotInFlight : Prop :=
  ∀ i s, isRun i = true → s.params.wf = true → s.decBusy = false → exec i s = .next s

/-- R186: the Report of RUN.GPIO is the bounded closed form of its waveform. -/
def Obligations.GpioReportIsClosedForm : Prop :=
  ∀ s, MemoryInv s → s.decBusy = true →
    ∃ t, exec .runGpio s = .next t ∧ HandedOver s t ∧ reportBytes t = reportOf s.params (gpioText s)

/-- R208: the Report of RUN.SPI is the bounded closed form of its events, which are found by collecting the bits of each
open transaction eight at a time (R202 to R205). -/
def Obligations.SpiReportIsClosedForm : Prop :=
  ∀ s, MemoryInv s → s.decBusy = true →
    ∃ t, exec .runSpi s = .next t ∧ HandedOver s t ∧ reportBytes t = reportOf s.params (spiText s)

/-- R228: the Report of RUN.I2C is the bounded closed form of its events (R222 to R226). -/
def Obligations.I2cReportIsClosedForm : Prop :=
  ∀ s, MemoryInv s → s.decBusy = true →
    ∃ t, exec .runI2c s = .next t ∧ HandedOver s t ∧ reportBytes t = reportOf s.params (i2cText s)

/-- R251, with R243 to R247: the Report of RUN.UART is the bounded closed form of its frames, each read at the sample
points `e + spb + spb div 2 + k*spb`. The baud rate is one that R241 divides by, never 0 (`StepKeepsCfgInv`). -/
def Obligations.UartReportIsClosedForm : Prop :=
  ∀ s, MemoryInv s → s.snap.uartBaud ≠ 0#24 → s.decBusy = true →
    ∃ t, exec .runUart s = .next t ∧ HandedOver s t ∧ reportBytes t = reportOf s.params (uartText s)

/-- R165: an unrecognised tag gives the diagnostic Report, whatever the tag of its rows. -/
def Obligations.UnknownTagGivesDiagnostic : Prop :=
  ∀ tag s, MemoryInv s → s.decBusy = true →
    (∃ t, exec (.runUnkLow tag) s = .next t ∧ HandedOver s t ∧ reportBytes t = reportOf s.params unkText) ∧
      (∃ t, exec (.runUnkHigh tag) s = .next t ∧ HandedOver s t ∧ reportBytes t = reportOf s.params unkText)

/-- R166, R169: the Report depends on the parameters, the tag, the baud rate and the eight channel levels of the half
being decoded, and on nothing else: not on the SPI mode, on higher Sample bits, on the other half, on an earlier
Report or on the working registers. -/
def Obligations.ReportDependsOnInputsOnly : Prop :=
  ∀ s1 s2, MemoryInv s1 → MemoryInv s2 → s1.decBusy = true → s2.decBusy = true → s1.params = s2.params →
    s1.snap.proto = s2.snap.proto → s1.snap.uartBaud = s2.snap.uartBaud →
    (∀ i k, i < s1.params.half → k < 8 → level s1 i k = level s2 i k) →
    ∃ t1 t2, runTurn s1 = .next t1 ∧ runTurn s2 = .next t2 ∧ t1.rptLen = t2.rptLen ∧ reportBytes t1 = reportBytes t2

/-- R247: a bit period of 0 gives the Report that a bit period of 1 gives. -/
def Obligations.ZeroBitPeriodActsAsOne : Prop :=
  ∀ s1 s2, MemoryInv s1 → MemoryInv s2 → s1.decBusy = true → s2.decBusy = true → s1.params = s2.params →
    s1.snap.uartBaud ≠ 0#24 → s2.snap.uartBaud ≠ 0#24 → samplesPerBit s1 = 0 → samplesPerBit s2 = 1 →
    (∀ i, i < s1.params.half → level s1 i s1.params.chUartRx = level s2 i s1.params.chUartRx) →
    ∃ t1 t2, exec .runUart s1 = .next t1 ∧ exec .runUart s2 = .next t2 ∧ t1.rptLen = t2.rptLen ∧
      reportBytes t1 = reportBytes t2

/-! Properties of the decoders (spec/43_gpio.md R187, spec/42_dispatcher.md R168) -/

/-- R187 (1), (3), (4), (5), with R184's last sentence: replaying a channel's transitions from its initial level
reconstructs the channel's levels; for channel 0 the index-0 record gives the initial level, for every channel the
initial level is the complement of the first transition's; a constant channel has no transition; indices increase
and levels alternate. The lists are those the Report of RUN.GPIO is made of (`GpioReportIsClosedForm`). -/
def Obligations.GpioWaveformProperties : Prop :=
  ∀ s c, (∀ i, i < s.params.half → replay (level s 0 c) (gpioTransitions s c) i = level s i c) ∧
    (∀ b i, i < s.params.half → replay b (gpioPairs s 0) i = level s i 0) ∧
    (∀ x, (gpioTransitions s c).head? = some x → level s 0 c = !x.2) ∧
    ((∀ i, i < s.params.half → level s i c = level s 0 c) → gpioTransitions s c = []) ∧
    ∀ k x y, (gpioTransitions s c)[k]? = some x → (gpioTransitions s c)[k + 1]? = some y →
      1 ≤ x.1 ∧ x.1 < y.1 ∧ x.2 ≠ y.2

/-- R187 (2): a half in which no channel changes gives the waveform object with no entry. -/
def Obligations.ConstantHalfGivesEmptyWaveform : Prop :=
  ∀ s, MemoryInv s → s.decBusy = true → (∀ i c, i < s.params.half → c < 8 → level s i c = level s 0 c) →
    ∃ t, exec .runGpio s = .next t ∧ reportBytes t = reportOf s.params (headGpio ++ tailGpio)

/-- R168, with R227 and R251: the timestamps of the events of one run, and the indices of one channel's transitions,
strictly increase. -/
def Obligations.TimestampsIncrease : Prop :=
  ∀ s, (spiEvents s).Pairwise (fun a b => a.ts < b.ts) ∧ (i2cEvents s).Pairwise (fun a b => a.ts < b.ts) ∧
    (uartEvents s).Pairwise (fun a b => a.ts < b.ts) ∧
    ∀ c, (gpioTransitions s c).Pairwise (fun a b => a.1 < b.1)

/-- R205 and R207 (f): the ranges of an SPI event's fields and the largest number of SPI events. -/
def Obligations.SpiEventBounds : Prop :=
  ∀ s, (∀ e ∈ spiEvents s, 1 ≤ e.ts ∧ e.ts + 15 ≤ s.params.half ∧ e.mosi ≤ 255 ∧ e.miso ≤ 255) ∧
    (spiEvents s).length ≤ s.params.half / 16

/-- R246 and R250 (a), (g): the ranges of a UART event's fields, that its stop bit lies in the half, and the largest
number of UART events. -/
def Obligations.UartEventBounds : Prop :=
  ∀ s, (∀ e ∈ uartEvents s, 1 ≤ e.ts ∧ samplePoint s e.ts 8 ≤ s.params.half - 1 ∧ e.value ≤ 255) ∧
    (uartEvents s).length ≤ (s.params.half - 1) / 10

/-! Invariants (spec/10_state.md R48) -/

/-- R340: every invariant holds after reset, in every legal instance. -/
def Obligations.ResetMeetsInvariants : Prop :=
  ∀ p : Params, p.wf = true →
    ControlInv (State.resetOf p) ∧ ReportInv (State.resetOf p) ∧ CfgInv (State.resetOf p) ∧
      MemoryInv (State.resetOf p)

/-- R48 items 1 to 6: every step keeps the control invariants. -/
def Obligations.StepKeepsControlInv : Prop := ∀ s t, ControlInv s → step s = .next t → ControlInv t

/-- R48 item 8: every step keeps the invariant of the ready Report. -/
def Obligations.StepKeepsReportInv : Prop :=
  ∀ s t, MemoryInv s → ReportInv s → step s = .next t → ReportInv t

/-- R29, R31: no step makes a held baud rate 0 or a tag above 3 that is not the reset one. -/
def Obligations.StepKeepsCfgInv : Prop := ∀ s t, CfgInv s → step s = .next t → CfgInv t

/-- R60, R71: every step keeps the three memories in canonical form and within their sizes. -/
def Obligations.StepKeepsMemoryInv : Prop := ∀ s t, MemoryInv s → step s = .next t → MemoryInv t

/-- R71, R300, R307: under the control invariants no step stops the machine. -/
def Obligations.NoStepStops : Prop := ∀ s, ControlInv s → ∃ t, step s = .next t

/-! Ownership (spec/20_memory.md R64, R65) and isolation (spec/42_dispatcher.md R163) -/

/-- R64, R145: while half 0 awaits the dispatcher or is being decoded, no step writes a Sample of it. -/
def Obligations.HalfUnderDecodeStable : Prop :=
  ∀ s t, ControlInv s → MemoryInv s → (s.sigPending = true ∨ s.decBusy = true) → step s = .next t →
    ∀ a, a < s.params.half → readCell blankSample t.sb a = readCell blankSample s.sb a

/-- R65: while a Report is ready no step writes RB. -/
def Obligations.ReportStableWhileReady : Prop :=
  ∀ s t, ControlInv s → s.rptValid = true → step s = .next t → t.rb = s.rb

/-- R163: between WAKE and RUN, no turn of HOST or CAPTURE, and no WAKE, changes the snapshot, the half being decoded or
its Samples; the run stays in flight. -/
def Obligations.SnapshotIsolation : Prop :=
  ∀ s t u, ControlInv s → MemoryInv s → s.decBusy = true → u ≠ .run → u ≠ .reset → takeTurn u s = .next t →
    t.decBusy = true ∧ t.snap = s.snap ∧ t.decHalf = s.decHalf ∧
      ∀ i, i < s.params.half → sampleAt t i = sampleAt s i

/-! Who writes what (spec/10_state.md, the Writers of each register) -/

/-- R21, R315: Idle is left only by START; Capturing is left only by RUN completion or RESET. -/
def Obligations.ModeChanges : Prop :=
  ∀ s t, step s = .next t →
    (s.astate = .idle → t.astate = .capturing →
      ∃ w proto param, s.agenda.head? = some (.cmd w) ∧ decode (.cmd32 w) = .start proto param) ∧
      (s.astate = .capturing → t.astate = .idle →
        s.agenda.head? = some .reset ∨ (dispatchRuns s ∧ s.decBusy = true ∧ t.rptValid = true))

/-- R22, R23: trigger and notifications are enabled only by a START accepted in Idle; the trigger is stopped only by RUN
completion, RESET or the TICK that wraps the pointer, notifications only by the first two. -/
def Obligations.TriggerChanges : Prop :=
  ∀ s t, step s = .next t →
    ((s.trigEn = false ∧ t.trigEn = true) ∨ (s.noteEn = false ∧ t.noteEn = true) →
      s.astate = .idle ∧ ∃ w proto param, s.agenda.head? = some (.cmd w) ∧ decode (.cmd32 w) = .start proto param) ∧
      (s.trigEn = true → t.trigEn = false →
        s.agenda.head? = some .reset ∨ (dispatchRuns s ∧ s.decBusy = true) ∨
          ((∃ pins, s.agenda.head? = some (.tick pins)) ∧ s.wrPtr + 1 = s.params.bufSize)) ∧
      (s.noteEn = true → t.noteEn = false →
        s.agenda.head? = some .reset ∨ (dispatchRuns s ∧ s.decBusy = true))

/-- R32: the report slot is filled only by RUN completion and emptied only by TAKE or RESET. -/
def Obligations.ReportSlotChanges : Prop :=
  ∀ s t, step s = .next t →
    (s.rptValid = false → t.rptValid = true → dispatchRuns s ∧ s.decBusy = true) ∧
      (s.rptValid = true → t.rptValid = false → s.agenda.head? = some .take ∨ s.agenda.head? = some .reset)

/-- R29 to R31, and R28: which step other than RESET (`ResetRestoresControl`) writes each field of the configuration: the CFG
command that names the new value; and which the snapshot: WAKE, scheduled or taken because nothing is (log entry
6). -/
def Obligations.ConfigurationChanges : Prop :=
  ∀ s t, step s = .next t → s.agenda.head? ≠ some .reset →
    (t.cfg.uartBaud ≠ s.cfg.uartBaud →
      ∃ w, s.agenda.head? = some (.cmd w) ∧ decode (.cmd32 w) = .cfgUart t.cfg.uartBaud) ∧
      (t.cfg.spiMode ≠ s.cfg.spiMode →
        ∃ w ignored, s.agenda.head? = some (.cmd w) ∧ decode (.cmd32 w) = .cfgSpi ignored t.cfg.spiMode) ∧
      (t.cfg.proto ≠ s.cfg.proto → t.cfg.proto ≤ 3#4 ∧
        ∃ w, s.agenda.head? = some (.cmd w) ∧ fieldOp w = 1#4 ∧ fieldProto w = t.cfg.proto) ∧
      (t.snap ≠ s.snap → (s.agenda.head? = some .wake ∨ s.agenda = []) ∧ wakeEnabled s = true ∧ t.snap = s.cfg ∧
        t.decHalf = s.sigHalf ∧ t.sigPending = false ∧ t.decBusy = true)

/-- R34: an element of SB changes only by a TICK with the trigger on, at the write pointer. The value stored is the Sample on
the lines cut to `SAMPLE_W` bits: the cut of a wider operand, and the storing of bits 8 and above, are log entry 7. -/
def Obligations.SampleBufferChanges : Prop :=
  ∀ s t a, MemoryInv s → step s = .next t → readCell blankSample t.sb a ≠ readCell blankSample s.sb a →
    s.trigEn = true ∧ a = s.wrPtr ∧
      ∃ pins, s.agenda.head? = some (.tick pins) ∧
        readCell blankSample t.sb a = pins % 2 ^ s.params.sampleWidth

/-- R35, R36: RB and SCR change only inside RUN. -/
def Obligations.ReportBufferChanges : Prop :=
  ∀ s t, step s = .next t → t.rb ≠ s.rb ∨ t.scr ≠ s.scr → dispatchRuns s ∧ s.decBusy = true

/-- R6: no step changes a parameter. -/
def Obligations.ParametersNeverChange : Prop := ∀ s t, step s = .next t → t.params = s.params

/-! The whole cycle (spec/41_arbiter.md R147, spec/70_reset_and_hazards.md R345) -/

/-- R147, R345: from an Idle state with no Report waiting, one START and `L` TICKs, with DISPATCH moving after them, give
in `L + 3` steps an Idle state with a Report ready: that of the `L` Samples ticked, decoded under the configuration. That
DISPATCH moves when the agenda is empty (for R140's fairness) is log entry 6, and that a Sample is cut to `SAMPLE_W` bits
log entry 7: the model's choices. -/
def Obligations.OneStartGivesOneReport : Prop :=
  ∀ (s : State) (w : Word32) (proto : BitVec 4) (param : BitVec 24) (pins : List Sample),
    ControlInv s → MemoryInv s → s.cfg.uartBaud ≠ 0#24 → s.astate = .idle → s.rptValid = false →
    decode (.cmd32 w) = .start proto param → pins.length = s.params.half →
    s.agenda = .cmd w :: pins.map Turn.tick →
    ∃ t : State, Host.Core.run Sys2Proof.core (s.params.half + 3) s = .next t ∧
      t.astate = .idle ∧ t.rptValid = true ∧ t.agenda = [] ∧ t.params = s.params ∧ t.cfg = s.cfg ∧ t.snap = s.cfg ∧
      t.decHalf = .first ∧ t.trigEn = false ∧ t.sigPending = false ∧ t.decBusy = false ∧
      (∀ k, k < s.params.half → sampleAt t k = pins.getD k 0 % 2 ^ s.params.sampleWidth) ∧
      reportBytes t = reportOf t.params (fullText t)

/-! What has been written since the last arm (spec/10_state.md R48 items 4 and 7) -/

/-- R48 items 4 and 7, with R147: every step keeps what is true of the Samples written since the last arm, none of them
twice. -/
def Obligations.StepKeepsSampleHistory : Prop :=
  ∀ s t written, ControlInv s → SampleHistory s written → step s = .next t → SampleHistory t (writtenAfter s written)

/-- R48 items 4 and 7: after reset nothing has been written since an arm; and the list of an armed machine starts empty,
whatever it was before (R141). -/
def Obligations.SampleHistoryBegins : Prop :=
  (∀ p, SampleHistory (State.resetOf p) []) ∧
    ∀ s w rest proto param written, ControlInv s → s.agenda = .cmd w :: rest → decode (.cmd32 w) = .start proto param →
      s.astate = .idle → ∃ t, step s = .next t ∧ t.trigEn = true ∧ writtenAfter s written = [] ∧ SampleHistory t []
end

