-- ==== Sys2Proof/Laws/Memory.lean ====
section
/-!
SUPPORT. The laws of one memory (spec/20_memory.md R60): a read after a write, the canonical form is kept, and what a
string written or read byte by byte does.
-/
namespace Sys2Proof.Laws

open Sys2Proof.Machine

section Cells

variable {α : Type} {blank : α}

@[simp] theorem readCell_nil (a : Nat) : readCell blank ([] : Memory α) a = blank := rfl

theorem readCell_cons (b : Nat) (v : α) (m : Memory α) (a : Nat) :
    readCell blank ((b, v) :: m) a = if a = b then v else readCell blank m a := rfl

/-- Below every listed index there is nothing but blanks. -/
theorem readCell_of_lt {m : Memory α} {a : Nat} (h : ∀ c ∈ m, a < c.1) : readCell blank m a = blank := by
  induction m with
  | nil => rfl
  | cons c m ih =>
    have hc := h c (by simp)
    rw [readCell_cons, if_neg (by omega)]
    exact ih fun d hd => h d (by simp [hd])

variable [DecidableEq α]

/-- A write lists no index that was not listed, but the one written. -/
theorem mem_writeCell_fst {m : Memory α} {a : Nat} {v : α} {c : Nat × α} (h : c ∈ writeCell blank m a v) :
    c ∈ m ∨ (c = (a, v) ∧ v ≠ blank) := by
  induction m with
  | nil =>
    simp only [writeCell] at h
    split at h
    · simp at h
    · exact .inr ⟨by simpa using h, ‹_›⟩
  | cons d m ih =>
    obtain ⟨b, x⟩ := d
    simp only [writeCell] at h
    split at h
    · split at h
      · exact .inl h
      · rcases List.mem_cons.1 h with h | h
        · exact .inr ⟨h, ‹_›⟩
        · exact .inl h
    · split at h
      · split at h
        · exact .inl (List.mem_cons_of_mem _ h)
        · rcases List.mem_cons.1 h with h | h
          · exact .inr ⟨h, ‹_›⟩
          · exact .inl (List.mem_cons_of_mem _ h)
      · rcases List.mem_cons.1 h with h | h
        · exact .inl (by simp [h])
        · rcases ih h with h | h
          · exact .inl (List.mem_cons_of_mem _ h)
          · exact .inr h

/-- A write keeps the canonical form. -/
theorem writeCell_wf {m : Memory α} (h : Memory.wf blank m) (a : Nat) (v : α) :
    Memory.wf blank (writeCell blank m a v) := by
  induction m with
  | nil =>
    simp only [writeCell]
    split
    · exact ⟨List.Pairwise.nil, by simp⟩
    · exact ⟨List.pairwise_singleton _ _, by simpa using ‹_›⟩
  | cons d m ih =>
    obtain ⟨b, x⟩ := d
    obtain ⟨hp, hb⟩ := h
    have hp' := List.pairwise_cons.1 hp
    have hx : x ≠ blank := hb (b, x) (by simp)
    have hm : ∀ c ∈ m, c.2 ≠ blank := fun c hc => hb c (List.mem_cons_of_mem _ hc)
    simp only [writeCell]
    split
    · split
      · exact ⟨hp, hb⟩
      · refine ⟨List.pairwise_cons.2 ⟨?_, hp⟩, ?_⟩
        · intro c hc
          rcases List.mem_cons.1 hc with rfl | hc
          · assumption
          · have := hp'.1 c hc; simp at this ⊢; omega
        · intro c hc
          rcases List.mem_cons.1 hc with rfl | hc
          · assumption
          · exact hb c hc
    · split
      · subst a
        split
        · exact ⟨hp'.2, hm⟩
        · refine ⟨List.pairwise_cons.2 ⟨hp'.1, hp'.2⟩, ?_⟩
          intro c hc
          rcases List.mem_cons.1 hc with rfl | hc
          · assumption
          · exact hm c hc
      · have hi := ih ⟨hp'.2, hm⟩
        refine ⟨List.pairwise_cons.2 ⟨?_, hi.1⟩, ?_⟩
        · intro c hc
          rcases mem_writeCell_fst hc with hc | ⟨rfl, -⟩
          · exact hp'.1 c hc
          · simp; omega
        · intro c hc
          rcases List.mem_cons.1 hc with rfl | hc
          · exact hx
          · exact hi.2 c hc

/-- A read after a write, for any memory in canonical form or not whose indices rise. -/
theorem readCell_writeCell {m : Memory α} (h : m.Pairwise (fun x y => x.1 < y.1)) (a : Nat) (v : α) (c : Nat) :
    readCell blank (writeCell blank m a v) c = if c = a then v else readCell blank m c := by
  induction m with
  | nil =>
    simp only [writeCell]
    split
    · subst v; simp
    · simp [readCell_cons]
  | cons d m ih =>
    obtain ⟨b, x⟩ := d
    have h' := List.pairwise_cons.1 h
    simp only [writeCell]
    split
    · rename_i hab
      split
      · rename_i hv
        by_cases hc : c = a
        · subst hv hc
          rw [if_pos rfl]
          refine readCell_of_lt fun e he => ?_
          rcases List.mem_cons.1 he with rfl | he
          · exact hab
          · have := h'.1 e he; simp at this; omega
        · rw [if_neg hc]
      · simp only [readCell_cons]
    · split
      · subst a
        split
        · rename_i hv
          subst hv
          by_cases hc : c = b
          · subst hc
            rw [if_pos rfl]
            exact readCell_of_lt h'.1
          · simp [readCell_cons, hc]
        · simp only [readCell_cons]
          split <;> rfl
      · rename_i hlt hne
        simp only [readCell_cons, ih h'.2]
        by_cases hc : c = b
        · subst hc
          rw [if_pos rfl, if_pos rfl, if_neg (by omega)]
        · simp [hc]

/-- The element written reads as the value written. -/
theorem readCell_writeCell_same {m : Memory α} (h : Memory.wf blank m) (a : Nat) (v : α) :
    readCell blank (writeCell blank m a v) a = v := by
  rw [readCell_writeCell h.1, if_pos rfl]

/-- Every other element reads as before. -/
theorem readCell_writeCell_other {m : Memory α} (h : Memory.wf blank m) {a c : Nat} (v : α) (hc : c ≠ a) :
    readCell blank (writeCell blank m a v) c = readCell blank m c := by
  rw [readCell_writeCell h.1, if_neg hc]

end Cells

section Bytes

theorem writeBytes_wf {m : List Host.Cell} (h : Memory.wf blankByte m) (a : Nat) (t : Text) :
    Memory.wf blankByte (writeBytes m a t) := by
  induction t generalizing m a with
  | nil => exact h
  | cons b bs ih => exact ih (writeCell_wf h a b) (a + 1)

/-- A string written at `a` is read back byte by byte; every byte outside it reads as before. -/
theorem readCell_writeBytes {m : List Host.Cell} (h : Memory.wf blankByte m) (a : Nat) (t : Text) (c : Nat) :
    readCell blankByte (writeBytes m a t) c =
      if a ≤ c ∧ c < a + t.length then t.getD (c - a) blankByte else readCell blankByte m c := by
  induction t generalizing m a with
  | nil => rw [if_neg (by simp)]; rfl
  | cons b bs ih =>
    rw [writeBytes, ih (writeCell_wf h a b) (a + 1), readCell_writeCell h.1]
    by_cases h1 : c = a
    · subst h1
      rw [if_neg (by omega), if_pos rfl, if_pos (by simp)]
      simp
    · by_cases h2 : a + 1 ≤ c ∧ c < a + 1 + bs.length
      · rw [if_pos h2, if_pos (by simp; omega)]
        obtain ⟨k, rfl⟩ : ∃ k, c = a + 1 + k := ⟨c - (a + 1), by omega⟩
        rw [show a + 1 + k - (a + 1) = k by omega, show a + 1 + k - a = k + 1 by omega, List.getD_cons_succ]
      · rw [if_neg h2, if_neg h1, if_neg (by simp; omega)]

/-- A string written below `n` lists no index at or above `n`. -/
theorem writeBytes_bound {m : List Host.Cell} {n : Nat} (h : ∀ c ∈ m, c.1 < n) (a : Nat) (t : Text)
    (ht : a + t.length ≤ n) : ∀ c ∈ writeBytes m a t, c.1 < n := by
  induction t generalizing m a with
  | nil => exact h
  | cons b bs ih =>
    simp only [List.length_cons] at ht
    refine ih (fun c hc => ?_) (a + 1) (by omega)
    rcases mem_writeCell_fst hc with hc | ⟨rfl, -⟩
    · exact h c hc
    · simp; omega

@[simp] theorem readBytes_zero (m : List Host.Cell) (a : Nat) : readBytes m a 0 = [] := rfl

@[simp] theorem readBytes_length (m : List Host.Cell) (a n : Nat) : (readBytes m a n).length = n := by
  induction n generalizing a with
  | zero => rfl
  | succ n ih => simp [readBytes, ih]

theorem readBytes_add (m : List Host.Cell) (a j k : Nat) :
    readBytes m a (j + k) = readBytes m a j ++ readBytes m (a + j) k := by
  induction j generalizing a with
  | zero => simp
  | succ j ih =>
    rw [show j + 1 + k = (j + k) + 1 by omega, readBytes, readBytes, ih, List.cons_append,
      show a + 1 + j = a + (j + 1) by omega]

/-- Two memories that agree on a range are read alike there. -/
theorem readBytes_congr {m m' : List Host.Cell} {a n : Nat}
    (h : ∀ c, a ≤ c → c < a + n → readCell blankByte m c = readCell blankByte m' c) :
    readBytes m a n = readBytes m' a n := by
  induction n generalizing a with
  | zero => rfl
  | succ n ih =>
    rw [readBytes, readBytes, h a le_rfl (by omega), ih fun c h1 h2 => h c (by omega) (by omega)]

/-- The string just written is what is read at its place. -/
theorem readBytes_writeBytes {m : List Host.Cell} (h : Memory.wf blankByte m) (a : Nat) (t : Text) :
    readBytes (writeBytes m a t) a t.length = t := by
  induction t generalizing m a with
  | nil => rfl
  | cons b bs ih =>
    rw [List.length_cons, readBytes, writeBytes, ih (writeCell_wf h a b) (a + 1),
      readCell_writeBytes (writeCell_wf h a b), if_neg (by omega), readCell_writeCell h.1, if_pos rfl]

/-- Free cells lie in their range and none is blank. -/
theorem mem_freeCells {free : Nat → Byte} {a n : Nat} {c : Host.Cell} (h : c ∈ freeCells free a n) :
    a ≤ c.1 ∧ c.1 < a + n ∧ c.2 ≠ blankByte := by
  induction n generalizing a with
  | zero => simp [freeCells] at h
  | succ n ih =>
    simp only [freeCells] at h
    split at h
    · have := ih h; exact ⟨by omega, by omega, this.2.2⟩
    · rcases List.mem_cons.1 h with rfl | h
      · exact ⟨le_rfl, by simp, ‹_›⟩
      · have := ih h; exact ⟨by omega, by omega, this.2.2⟩

theorem freeCells_wf (free : Nat → Byte) (a n : Nat) : Memory.wf blankByte (freeCells free a n) := by
  refine ⟨?_, fun c hc => (mem_freeCells hc).2.2⟩
  induction n generalizing a with
  | zero => exact List.Pairwise.nil
  | succ n ih =>
    simp only [freeCells]
    split
    · exact ih _
    · refine List.pairwise_cons.2 ⟨fun c hc => ?_, ih _⟩
      have := (mem_freeCells hc).1
      simp; omega

/-- Forgetting keeps the canonical form. -/
theorem forgetFrom_wf {m : List Host.Cell} (h : Memory.wf blankByte m) (free : Nat → Byte) (a cap : Nat) :
    Memory.wf blankByte (forgetFrom free a cap m) := by
  have hw := freeCells_wf free a (cap - a)
  refine ⟨List.pairwise_append.2 ⟨h.1.filter _, hw.1, fun x hx y hy => ?_⟩, fun c hc => ?_⟩
  · have h1 := (List.mem_filter.1 hx).2
    have h2 := (mem_freeCells hy).1
    simp at h1; omega
  · rcases List.mem_append.1 hc with hc | hc
    · exact h.2 c (List.mem_filter.1 hc).1
    · exact hw.2 c hc

/-- Forgetting lists no index at or above the capacity. -/
theorem forgetFrom_bound {m : List Host.Cell} {cap : Nat} (h : ∀ c ∈ m, c.1 < cap) (free : Nat → Byte) (a : Nat) :
    ∀ c ∈ forgetFrom free a cap m, c.1 < cap := by
  intro c hc
  rcases List.mem_append.1 hc with hc | hc
  · exact h c (List.mem_filter.1 hc).1
  · have := mem_freeCells hc; omega

/-- Below the index forgotten from, every byte reads as before. -/
theorem readCell_forgetFrom {m : List Host.Cell} (free : Nat → Byte) {a cap c : Nat} (hc : c < a) :
    readCell blankByte (forgetFrom free a cap m) c = readCell blankByte m c := by
  induction m with
  | nil =>
    simp only [forgetFrom, List.filter_nil, List.nil_append, readCell_nil]
    exact readCell_of_lt fun d hd => by have := (mem_freeCells hd).1; omega
  | cons d m ih =>
    obtain ⟨b, x⟩ := d
    by_cases hb : b < a
    · rw [show forgetFrom free a cap ((b, x) :: m) = (b, x) :: forgetFrom free a cap m by simp [forgetFrom, hb],
        readCell_cons, readCell_cons, ih]
    · rw [show forgetFrom free a cap ((b, x) :: m) = forgetFrom free a cap m by simp [forgetFrom, hb],
        readCell_cons, if_neg (by omega), ih]

/-- What is read below the index forgotten from is what was read there. -/
theorem readBytes_forgetFrom {m : List Host.Cell} (free : Nat → Byte) (a cap : Nat) :
    readBytes (forgetFrom free a cap m) 0 a = readBytes m 0 a :=
  readBytes_congr fun _ _ hc => readCell_forgetFrom free (by omega)

end Bytes

end Sys2Proof.Laws
end

