-- ==== Sys2Proof/Laws/State.lean ====
section
/-!
SUPPORT. What each named update of the State does to each field: one lemma per field per update, true by rfl.
-/
namespace Sys2Proof.Laws

open Sys2Proof.Machine

@[simp] theorem setProto_params (t : Tag) (s : State) : (setProto t s).params = s.params := rfl
@[simp] theorem setProto_agenda (t : Tag) (s : State) : (setProto t s).agenda = s.agenda := rfl
@[simp] theorem setProto_runCount (t : Tag) (s : State) : (setProto t s).runCount = s.runCount := rfl
@[simp] theorem setProto_astate (t : Tag) (s : State) : (setProto t s).astate = s.astate := rfl
@[simp] theorem setProto_trigEn (t : Tag) (s : State) : (setProto t s).trigEn = s.trigEn := rfl
@[simp] theorem setProto_noteEn (t : Tag) (s : State) : (setProto t s).noteEn = s.noteEn := rfl
@[simp] theorem setProto_wrPtr (t : Tag) (s : State) : (setProto t s).wrPtr = s.wrPtr := rfl
@[simp] theorem setProto_served (t : Tag) (s : State) : (setProto t s).served = s.served := rfl
@[simp] theorem setProto_sigPending (t : Tag) (s : State) : (setProto t s).sigPending = s.sigPending := rfl
@[simp] theorem setProto_sigHalf (t : Tag) (s : State) : (setProto t s).sigHalf = s.sigHalf := rfl
@[simp] theorem setProto_decBusy (t : Tag) (s : State) : (setProto t s).decBusy = s.decBusy := rfl
@[simp] theorem setProto_decHalf (t : Tag) (s : State) : (setProto t s).decHalf = s.decHalf := rfl
@[simp] theorem setProto_snap (t : Tag) (s : State) : (setProto t s).snap = s.snap := rfl
@[simp] theorem setProto_cfg (t : Tag) (s : State) : (setProto t s).cfg = { s.cfg with proto := t } := rfl
@[simp] theorem setProto_rptValid (t : Tag) (s : State) : (setProto t s).rptValid = s.rptValid := rfl
@[simp] theorem setProto_rptLen (t : Tag) (s : State) : (setProto t s).rptLen = s.rptLen := rfl
@[simp] theorem setProto_sb (t : Tag) (s : State) : (setProto t s).sb = s.sb := rfl
@[simp] theorem setProto_rb (t : Tag) (s : State) : (setProto t s).rb = s.rb := rfl
@[simp] theorem setProto_scr (t : Tag) (s : State) : (setProto t s).scr = s.scr := rfl
@[simp] theorem setProto_work (t : Tag) (s : State) : (setProto t s).work = s.work := rfl

@[simp] theorem setSpiMode_params (m : BitVec 2) (s : State) : (setSpiMode m s).params = s.params := rfl
@[simp] theorem setSpiMode_agenda (m : BitVec 2) (s : State) : (setSpiMode m s).agenda = s.agenda := rfl
@[simp] theorem setSpiMode_runCount (m : BitVec 2) (s : State) : (setSpiMode m s).runCount = s.runCount := rfl
@[simp] theorem setSpiMode_astate (m : BitVec 2) (s : State) : (setSpiMode m s).astate = s.astate := rfl
@[simp] theorem setSpiMode_trigEn (m : BitVec 2) (s : State) : (setSpiMode m s).trigEn = s.trigEn := rfl
@[simp] theorem setSpiMode_noteEn (m : BitVec 2) (s : State) : (setSpiMode m s).noteEn = s.noteEn := rfl
@[simp] theorem setSpiMode_wrPtr (m : BitVec 2) (s : State) : (setSpiMode m s).wrPtr = s.wrPtr := rfl
@[simp] theorem setSpiMode_served (m : BitVec 2) (s : State) : (setSpiMode m s).served = s.served := rfl
@[simp] theorem setSpiMode_sigPending (m : BitVec 2) (s : State) : (setSpiMode m s).sigPending = s.sigPending := rfl
@[simp] theorem setSpiMode_sigHalf (m : BitVec 2) (s : State) : (setSpiMode m s).sigHalf = s.sigHalf := rfl
@[simp] theorem setSpiMode_decBusy (m : BitVec 2) (s : State) : (setSpiMode m s).decBusy = s.decBusy := rfl
@[simp] theorem setSpiMode_decHalf (m : BitVec 2) (s : State) : (setSpiMode m s).decHalf = s.decHalf := rfl
@[simp] theorem setSpiMode_snap (m : BitVec 2) (s : State) : (setSpiMode m s).snap = s.snap := rfl
@[simp] theorem setSpiMode_cfg (m : BitVec 2) (s : State) : (setSpiMode m s).cfg = { s.cfg with spiMode := m } := rfl
@[simp] theorem setSpiMode_rptValid (m : BitVec 2) (s : State) : (setSpiMode m s).rptValid = s.rptValid := rfl
@[simp] theorem setSpiMode_rptLen (m : BitVec 2) (s : State) : (setSpiMode m s).rptLen = s.rptLen := rfl
@[simp] theorem setSpiMode_sb (m : BitVec 2) (s : State) : (setSpiMode m s).sb = s.sb := rfl
@[simp] theorem setSpiMode_rb (m : BitVec 2) (s : State) : (setSpiMode m s).rb = s.rb := rfl
@[simp] theorem setSpiMode_scr (m : BitVec 2) (s : State) : (setSpiMode m s).scr = s.scr := rfl
@[simp] theorem setSpiMode_work (m : BitVec 2) (s : State) : (setSpiMode m s).work = s.work := rfl

@[simp] theorem setUartBaud_params (b : BitVec 24) (s : State) : (setUartBaud b s).params = s.params := rfl
@[simp] theorem setUartBaud_agenda (b : BitVec 24) (s : State) : (setUartBaud b s).agenda = s.agenda := rfl
@[simp] theorem setUartBaud_runCount (b : BitVec 24) (s : State) : (setUartBaud b s).runCount = s.runCount := rfl
@[simp] theorem setUartBaud_astate (b : BitVec 24) (s : State) : (setUartBaud b s).astate = s.astate := rfl
@[simp] theorem setUartBaud_trigEn (b : BitVec 24) (s : State) : (setUartBaud b s).trigEn = s.trigEn := rfl
@[simp] theorem setUartBaud_noteEn (b : BitVec 24) (s : State) : (setUartBaud b s).noteEn = s.noteEn := rfl
@[simp] theorem setUartBaud_wrPtr (b : BitVec 24) (s : State) : (setUartBaud b s).wrPtr = s.wrPtr := rfl
@[simp] theorem setUartBaud_served (b : BitVec 24) (s : State) : (setUartBaud b s).served = s.served := rfl
@[simp] theorem setUartBaud_sigPending (b : BitVec 24) (s : State) : (setUartBaud b s).sigPending = s.sigPending := rfl
@[simp] theorem setUartBaud_sigHalf (b : BitVec 24) (s : State) : (setUartBaud b s).sigHalf = s.sigHalf := rfl
@[simp] theorem setUartBaud_decBusy (b : BitVec 24) (s : State) : (setUartBaud b s).decBusy = s.decBusy := rfl
@[simp] theorem setUartBaud_decHalf (b : BitVec 24) (s : State) : (setUartBaud b s).decHalf = s.decHalf := rfl
@[simp] theorem setUartBaud_snap (b : BitVec 24) (s : State) : (setUartBaud b s).snap = s.snap := rfl
@[simp] theorem setUartBaud_cfg (b : BitVec 24) (s : State) : (setUartBaud b s).cfg = { s.cfg with uartBaud := b } := rfl
@[simp] theorem setUartBaud_rptValid (b : BitVec 24) (s : State) : (setUartBaud b s).rptValid = s.rptValid := rfl
@[simp] theorem setUartBaud_rptLen (b : BitVec 24) (s : State) : (setUartBaud b s).rptLen = s.rptLen := rfl
@[simp] theorem setUartBaud_sb (b : BitVec 24) (s : State) : (setUartBaud b s).sb = s.sb := rfl
@[simp] theorem setUartBaud_rb (b : BitVec 24) (s : State) : (setUartBaud b s).rb = s.rb := rfl
@[simp] theorem setUartBaud_scr (b : BitVec 24) (s : State) : (setUartBaud b s).scr = s.scr := rfl
@[simp] theorem setUartBaud_work (b : BitVec 24) (s : State) : (setUartBaud b s).work = s.work := rfl

@[simp] theorem arm_params (s : State) : (arm s).params = s.params := rfl
@[simp] theorem arm_agenda (s : State) : (arm s).agenda = s.agenda := rfl
@[simp] theorem arm_runCount (s : State) : (arm s).runCount = s.runCount := rfl
@[simp] theorem arm_astate (s : State) : (arm s).astate = s.astate := rfl
@[simp] theorem arm_trigEn (s : State) : (arm s).trigEn = true := rfl
@[simp] theorem arm_noteEn (s : State) : (arm s).noteEn = true := rfl
@[simp] theorem arm_wrPtr (s : State) : (arm s).wrPtr = 0 := rfl
@[simp] theorem arm_served (s : State) : (arm s).served = false := rfl
@[simp] theorem arm_sigPending (s : State) : (arm s).sigPending = s.sigPending := rfl
@[simp] theorem arm_sigHalf (s : State) : (arm s).sigHalf = s.sigHalf := rfl
@[simp] theorem arm_decBusy (s : State) : (arm s).decBusy = s.decBusy := rfl
@[simp] theorem arm_decHalf (s : State) : (arm s).decHalf = s.decHalf := rfl
@[simp] theorem arm_snap (s : State) : (arm s).snap = s.snap := rfl
@[simp] theorem arm_cfg (s : State) : (arm s).cfg = s.cfg := rfl
@[simp] theorem arm_rptValid (s : State) : (arm s).rptValid = s.rptValid := rfl
@[simp] theorem arm_rptLen (s : State) : (arm s).rptLen = s.rptLen := rfl
@[simp] theorem arm_sb (s : State) : (arm s).sb = s.sb := rfl
@[simp] theorem arm_rb (s : State) : (arm s).rb = s.rb := rfl
@[simp] theorem arm_scr (s : State) : (arm s).scr = s.scr := rfl
@[simp] theorem arm_work (s : State) : (arm s).work = s.work := rfl

@[simp] theorem disarm_params (s : State) : (disarm s).params = s.params := rfl
@[simp] theorem disarm_agenda (s : State) : (disarm s).agenda = s.agenda := rfl
@[simp] theorem disarm_runCount (s : State) : (disarm s).runCount = s.runCount := rfl
@[simp] theorem disarm_astate (s : State) : (disarm s).astate = s.astate := rfl
@[simp] theorem disarm_trigEn (s : State) : (disarm s).trigEn = false := rfl
@[simp] theorem disarm_noteEn (s : State) : (disarm s).noteEn = false := rfl
@[simp] theorem disarm_wrPtr (s : State) : (disarm s).wrPtr = s.wrPtr := rfl
@[simp] theorem disarm_served (s : State) : (disarm s).served = s.served := rfl
@[simp] theorem disarm_sigPending (s : State) : (disarm s).sigPending = s.sigPending := rfl
@[simp] theorem disarm_sigHalf (s : State) : (disarm s).sigHalf = s.sigHalf := rfl
@[simp] theorem disarm_decBusy (s : State) : (disarm s).decBusy = s.decBusy := rfl
@[simp] theorem disarm_decHalf (s : State) : (disarm s).decHalf = s.decHalf := rfl
@[simp] theorem disarm_snap (s : State) : (disarm s).snap = s.snap := rfl
@[simp] theorem disarm_cfg (s : State) : (disarm s).cfg = s.cfg := rfl
@[simp] theorem disarm_rptValid (s : State) : (disarm s).rptValid = s.rptValid := rfl
@[simp] theorem disarm_rptLen (s : State) : (disarm s).rptLen = s.rptLen := rfl
@[simp] theorem disarm_sb (s : State) : (disarm s).sb = s.sb := rfl
@[simp] theorem disarm_rb (s : State) : (disarm s).rb = s.rb := rfl
@[simp] theorem disarm_scr (s : State) : (disarm s).scr = s.scr := rfl
@[simp] theorem disarm_work (s : State) : (disarm s).work = s.work := rfl

@[simp] theorem postSignal_params (h : Half) (s : State) : (postSignal h s).params = s.params := rfl
@[simp] theorem postSignal_agenda (h : Half) (s : State) : (postSignal h s).agenda = s.agenda := rfl
@[simp] theorem postSignal_runCount (h : Half) (s : State) : (postSignal h s).runCount = s.runCount := rfl
@[simp] theorem postSignal_astate (h : Half) (s : State) : (postSignal h s).astate = s.astate := rfl
@[simp] theorem postSignal_trigEn (h : Half) (s : State) : (postSignal h s).trigEn = s.trigEn := rfl
@[simp] theorem postSignal_noteEn (h : Half) (s : State) : (postSignal h s).noteEn = s.noteEn := rfl
@[simp] theorem postSignal_wrPtr (h : Half) (s : State) : (postSignal h s).wrPtr = s.wrPtr := rfl
@[simp] theorem postSignal_served (h : Half) (s : State) : (postSignal h s).served = true := rfl
@[simp] theorem postSignal_sigPending (h : Half) (s : State) : (postSignal h s).sigPending = true := rfl
@[simp] theorem postSignal_sigHalf (h : Half) (s : State) : (postSignal h s).sigHalf = h := rfl
@[simp] theorem postSignal_decBusy (h : Half) (s : State) : (postSignal h s).decBusy = s.decBusy := rfl
@[simp] theorem postSignal_decHalf (h : Half) (s : State) : (postSignal h s).decHalf = s.decHalf := rfl
@[simp] theorem postSignal_snap (h : Half) (s : State) : (postSignal h s).snap = s.snap := rfl
@[simp] theorem postSignal_cfg (h : Half) (s : State) : (postSignal h s).cfg = s.cfg := rfl
@[simp] theorem postSignal_rptValid (h : Half) (s : State) : (postSignal h s).rptValid = s.rptValid := rfl
@[simp] theorem postSignal_rptLen (h : Half) (s : State) : (postSignal h s).rptLen = s.rptLen := rfl
@[simp] theorem postSignal_sb (h : Half) (s : State) : (postSignal h s).sb = s.sb := rfl
@[simp] theorem postSignal_rb (h : Half) (s : State) : (postSignal h s).rb = s.rb := rfl
@[simp] theorem postSignal_scr (h : Half) (s : State) : (postSignal h s).scr = s.scr := rfl
@[simp] theorem postSignal_work (h : Half) (s : State) : (postSignal h s).work = s.work := rfl

@[simp] theorem claimHalf_params (s : State) : (claimHalf s).params = s.params := rfl
@[simp] theorem claimHalf_agenda (s : State) : (claimHalf s).agenda = s.agenda := rfl
@[simp] theorem claimHalf_runCount (s : State) : (claimHalf s).runCount = s.runCount := rfl
@[simp] theorem claimHalf_astate (s : State) : (claimHalf s).astate = s.astate := rfl
@[simp] theorem claimHalf_trigEn (s : State) : (claimHalf s).trigEn = s.trigEn := rfl
@[simp] theorem claimHalf_noteEn (s : State) : (claimHalf s).noteEn = s.noteEn := rfl
@[simp] theorem claimHalf_wrPtr (s : State) : (claimHalf s).wrPtr = s.wrPtr := rfl
@[simp] theorem claimHalf_served (s : State) : (claimHalf s).served = s.served := rfl
@[simp] theorem claimHalf_sigPending (s : State) : (claimHalf s).sigPending = false := rfl
@[simp] theorem claimHalf_sigHalf (s : State) : (claimHalf s).sigHalf = s.sigHalf := rfl
@[simp] theorem claimHalf_decBusy (s : State) : (claimHalf s).decBusy = true := rfl
@[simp] theorem claimHalf_decHalf (s : State) : (claimHalf s).decHalf = s.sigHalf := rfl
@[simp] theorem claimHalf_snap (s : State) : (claimHalf s).snap = s.cfg := rfl
@[simp] theorem claimHalf_cfg (s : State) : (claimHalf s).cfg = s.cfg := rfl
@[simp] theorem claimHalf_rptValid (s : State) : (claimHalf s).rptValid = s.rptValid := rfl
@[simp] theorem claimHalf_rptLen (s : State) : (claimHalf s).rptLen = s.rptLen := rfl
@[simp] theorem claimHalf_sb (s : State) : (claimHalf s).sb = s.sb := rfl
@[simp] theorem claimHalf_rb (s : State) : (claimHalf s).rb = s.rb := rfl
@[simp] theorem claimHalf_scr (s : State) : (claimHalf s).scr = s.scr := rfl
@[simp] theorem claimHalf_work (s : State) : (claimHalf s).work = s.work := rfl

@[simp] theorem complete_params (n : Nat) (s : State) : (complete n s).params = s.params := rfl
@[simp] theorem complete_agenda (n : Nat) (s : State) : (complete n s).agenda = s.agenda := rfl
@[simp] theorem complete_runCount (n : Nat) (s : State) : (complete n s).runCount = s.runCount + 1 := rfl
@[simp] theorem complete_astate (n : Nat) (s : State) : (complete n s).astate = .idle := rfl
@[simp] theorem complete_trigEn (n : Nat) (s : State) : (complete n s).trigEn = false := rfl
@[simp] theorem complete_noteEn (n : Nat) (s : State) : (complete n s).noteEn = false := rfl
@[simp] theorem complete_wrPtr (n : Nat) (s : State) : (complete n s).wrPtr = s.wrPtr := rfl
@[simp] theorem complete_served (n : Nat) (s : State) : (complete n s).served = s.served := rfl
@[simp] theorem complete_sigPending (n : Nat) (s : State) : (complete n s).sigPending = s.sigPending := rfl
@[simp] theorem complete_sigHalf (n : Nat) (s : State) : (complete n s).sigHalf = s.sigHalf := rfl
@[simp] theorem complete_decBusy (n : Nat) (s : State) : (complete n s).decBusy = false := rfl
@[simp] theorem complete_decHalf (n : Nat) (s : State) : (complete n s).decHalf = s.decHalf := rfl
@[simp] theorem complete_snap (n : Nat) (s : State) : (complete n s).snap = s.snap := rfl
@[simp] theorem complete_cfg (n : Nat) (s : State) : (complete n s).cfg = s.cfg := rfl
@[simp] theorem complete_rptValid (n : Nat) (s : State) : (complete n s).rptValid = true := rfl
@[simp] theorem complete_rptLen (n : Nat) (s : State) : (complete n s).rptLen = n := rfl
@[simp] theorem complete_sb (n : Nat) (s : State) : (complete n s).sb = s.sb := rfl
@[simp] theorem complete_rb (n : Nat) (s : State) : (complete n s).rb =
    forgetFrom (Config.freeReportByte s.runCount) n s.params.reportCap s.rb := rfl
@[simp] theorem complete_scr (n : Nat) (s : State) : (complete n s).scr = s.scr := rfl
@[simp] theorem complete_work (n : Nat) (s : State) : (complete n s).work = Config.freeWork s.runCount := rfl

@[simp] theorem storeSample_params (p : Sample) (s : State) : (storeSample p s).params = s.params := rfl
@[simp] theorem storeSample_agenda (p : Sample) (s : State) : (storeSample p s).agenda = s.agenda := rfl
@[simp] theorem storeSample_runCount (p : Sample) (s : State) : (storeSample p s).runCount = s.runCount := rfl
@[simp] theorem storeSample_astate (p : Sample) (s : State) : (storeSample p s).astate = s.astate := rfl
@[simp] theorem storeSample_trigEn (p : Sample) (s : State) : (storeSample p s).trigEn = s.trigEn := rfl
@[simp] theorem storeSample_noteEn (p : Sample) (s : State) : (storeSample p s).noteEn = s.noteEn := rfl
@[simp] theorem storeSample_wrPtr (p : Sample) (s : State) : (storeSample p s).wrPtr = s.wrPtr := rfl
@[simp] theorem storeSample_served (p : Sample) (s : State) : (storeSample p s).served = s.served := rfl
@[simp] theorem storeSample_sigPending (p : Sample) (s : State) : (storeSample p s).sigPending = s.sigPending := rfl
@[simp] theorem storeSample_sigHalf (p : Sample) (s : State) : (storeSample p s).sigHalf = s.sigHalf := rfl
@[simp] theorem storeSample_decBusy (p : Sample) (s : State) : (storeSample p s).decBusy = s.decBusy := rfl
@[simp] theorem storeSample_decHalf (p : Sample) (s : State) : (storeSample p s).decHalf = s.decHalf := rfl
@[simp] theorem storeSample_snap (p : Sample) (s : State) : (storeSample p s).snap = s.snap := rfl
@[simp] theorem storeSample_cfg (p : Sample) (s : State) : (storeSample p s).cfg = s.cfg := rfl
@[simp] theorem storeSample_rptValid (p : Sample) (s : State) : (storeSample p s).rptValid = s.rptValid := rfl
@[simp] theorem storeSample_rptLen (p : Sample) (s : State) : (storeSample p s).rptLen = s.rptLen := rfl
@[simp] theorem storeSample_sb (p : Sample) (s : State) : (storeSample p s).sb = writeCell blankSample s.sb s.wrPtr (p % 2 ^ s.params.sampleWidth) := rfl
@[simp] theorem storeSample_rb (p : Sample) (s : State) : (storeSample p s).rb = s.rb := rfl
@[simp] theorem storeSample_scr (p : Sample) (s : State) : (storeSample p s).scr = s.scr := rfl
@[simp] theorem storeSample_work (p : Sample) (s : State) : (storeSample p s).work = s.work := rfl

@[simp] theorem takeReport_params (s : State) : (takeReport s).params = s.params := rfl
@[simp] theorem takeReport_agenda (s : State) : (takeReport s).agenda = s.agenda := rfl
@[simp] theorem takeReport_runCount (s : State) : (takeReport s).runCount = s.runCount := rfl
@[simp] theorem takeReport_astate (s : State) : (takeReport s).astate = s.astate := rfl
@[simp] theorem takeReport_trigEn (s : State) : (takeReport s).trigEn = s.trigEn := rfl
@[simp] theorem takeReport_noteEn (s : State) : (takeReport s).noteEn = s.noteEn := rfl
@[simp] theorem takeReport_wrPtr (s : State) : (takeReport s).wrPtr = s.wrPtr := rfl
@[simp] theorem takeReport_served (s : State) : (takeReport s).served = s.served := rfl
@[simp] theorem takeReport_sigPending (s : State) : (takeReport s).sigPending = s.sigPending := rfl
@[simp] theorem takeReport_sigHalf (s : State) : (takeReport s).sigHalf = s.sigHalf := rfl
@[simp] theorem takeReport_decBusy (s : State) : (takeReport s).decBusy = s.decBusy := rfl
@[simp] theorem takeReport_decHalf (s : State) : (takeReport s).decHalf = s.decHalf := rfl
@[simp] theorem takeReport_snap (s : State) : (takeReport s).snap = s.snap := rfl
@[simp] theorem takeReport_cfg (s : State) : (takeReport s).cfg = s.cfg := rfl
@[simp] theorem takeReport_rptValid (s : State) : (takeReport s).rptValid = false := rfl
@[simp] theorem takeReport_rptLen (s : State) : (takeReport s).rptLen = s.rptLen := rfl
@[simp] theorem takeReport_sb (s : State) : (takeReport s).sb = s.sb := rfl
@[simp] theorem takeReport_rb (s : State) : (takeReport s).rb = s.rb := rfl
@[simp] theorem takeReport_scr (s : State) : (takeReport s).scr = s.scr := rfl
@[simp] theorem takeReport_work (s : State) : (takeReport s).work = s.work := rfl

@[simp] theorem resetPin_params (s : State) : (resetPin s).params = s.params := rfl
@[simp] theorem resetPin_agenda (s : State) : (resetPin s).agenda = s.agenda := rfl
@[simp] theorem resetPin_runCount (s : State) : (resetPin s).runCount = s.runCount := rfl
@[simp] theorem resetPin_astate (s : State) : (resetPin s).astate = .idle := rfl
@[simp] theorem resetPin_trigEn (s : State) : (resetPin s).trigEn = false := rfl
@[simp] theorem resetPin_noteEn (s : State) : (resetPin s).noteEn = false := rfl
@[simp] theorem resetPin_wrPtr (s : State) : (resetPin s).wrPtr = 0 := rfl
@[simp] theorem resetPin_served (s : State) : (resetPin s).served = false := rfl
@[simp] theorem resetPin_sigPending (s : State) : (resetPin s).sigPending = false := rfl
@[simp] theorem resetPin_sigHalf (s : State) : (resetPin s).sigHalf = .first := rfl
@[simp] theorem resetPin_decBusy (s : State) : (resetPin s).decBusy = false := rfl
@[simp] theorem resetPin_decHalf (s : State) : (resetPin s).decHalf = .first := rfl
@[simp] theorem resetPin_snap (s : State) : (resetPin s).snap = Cfg.atReset s.params := rfl
@[simp] theorem resetPin_cfg (s : State) : (resetPin s).cfg = Cfg.atReset s.params := rfl
@[simp] theorem resetPin_rptValid (s : State) : (resetPin s).rptValid = false := rfl
@[simp] theorem resetPin_rptLen (s : State) : (resetPin s).rptLen = 0 := rfl
@[simp] theorem resetPin_sb (s : State) : (resetPin s).sb = s.sb := rfl
@[simp] theorem resetPin_rb (s : State) : (resetPin s).rb = s.rb := rfl
@[simp] theorem resetPin_scr (s : State) : (resetPin s).scr = s.scr := rfl
@[simp] theorem resetPin_work (s : State) : (resetPin s).work = s.work := rfl

@[simp] theorem afterRun_params (d : State → Run → Run) (s : State) : (afterRun d s).params = s.params := rfl
@[simp] theorem afterRun_agenda (d : State → Run → Run) (s : State) : (afterRun d s).agenda = s.agenda := rfl
@[simp] theorem afterRun_runCount (d : State → Run → Run) (s : State) : (afterRun d s).runCount = s.runCount + 1 := rfl
@[simp] theorem afterRun_astate (d : State → Run → Run) (s : State) : (afterRun d s).astate = .idle := rfl
@[simp] theorem afterRun_trigEn (d : State → Run → Run) (s : State) : (afterRun d s).trigEn = false := rfl
@[simp] theorem afterRun_noteEn (d : State → Run → Run) (s : State) : (afterRun d s).noteEn = false := rfl
@[simp] theorem afterRun_wrPtr (d : State → Run → Run) (s : State) : (afterRun d s).wrPtr = s.wrPtr := rfl
@[simp] theorem afterRun_served (d : State → Run → Run) (s : State) : (afterRun d s).served = s.served := rfl
@[simp] theorem afterRun_sigPending (d : State → Run → Run) (s : State) : (afterRun d s).sigPending = s.sigPending := rfl
@[simp] theorem afterRun_sigHalf (d : State → Run → Run) (s : State) : (afterRun d s).sigHalf = s.sigHalf := rfl
@[simp] theorem afterRun_decBusy (d : State → Run → Run) (s : State) : (afterRun d s).decBusy = false := rfl
@[simp] theorem afterRun_decHalf (d : State → Run → Run) (s : State) : (afterRun d s).decHalf = s.decHalf := rfl
@[simp] theorem afterRun_snap (d : State → Run → Run) (s : State) : (afterRun d s).snap = s.snap := rfl
@[simp] theorem afterRun_cfg (d : State → Run → Run) (s : State) : (afterRun d s).cfg = s.cfg := rfl
@[simp] theorem afterRun_rptValid (d : State → Run → Run) (s : State) : (afterRun d s).rptValid = true := rfl
@[simp] theorem afterRun_rptLen (d : State → Run → Run) (s : State) : (afterRun d s).rptLen = (runResult d s).work.fmt.cur := rfl
@[simp] theorem afterRun_sb (d : State → Run → Run) (s : State) : (afterRun d s).sb = s.sb := rfl
@[simp] theorem afterRun_rb (d : State → Run → Run) (s : State) : (afterRun d s).rb =
    forgetFrom (Config.freeReportByte s.runCount) (runResult d s).work.fmt.cur s.params.reportCap
      (runResult d s).rb := rfl
@[simp] theorem afterRun_scr (d : State → Run → Run) (s : State) : (afterRun d s).scr = (runResult d s).scr := rfl
@[simp] theorem afterRun_work (d : State → Run → Run) (s : State) : (afterRun d s).work = Config.freeWork s.runCount := rfl

@[simp] theorem raise_eq {α : Type} (c : Condition) (x : α) : raise c x = x := rfl

@[simp] theorem notify_params (h : Half) (s : State) : (notify h s).params = s.params := by unfold notify; split <;> rfl
@[simp] theorem notify_agenda (h : Half) (s : State) : (notify h s).agenda = s.agenda := by unfold notify; split <;> rfl
@[simp] theorem notify_runCount (h : Half) (s : State) : (notify h s).runCount = s.runCount := by unfold notify; split <;> rfl
@[simp] theorem notify_astate (h : Half) (s : State) : (notify h s).astate = s.astate := by unfold notify; split <;> rfl
@[simp] theorem notify_trigEn (h : Half) (s : State) : (notify h s).trigEn = s.trigEn := by unfold notify; split <;> rfl
@[simp] theorem notify_noteEn (h : Half) (s : State) : (notify h s).noteEn = s.noteEn := by unfold notify; split <;> rfl
@[simp] theorem notify_wrPtr (h : Half) (s : State) : (notify h s).wrPtr = s.wrPtr := by unfold notify; split <;> rfl
@[simp] theorem notify_decBusy (h : Half) (s : State) : (notify h s).decBusy = s.decBusy := by unfold notify; split <;> rfl
@[simp] theorem notify_decHalf (h : Half) (s : State) : (notify h s).decHalf = s.decHalf := by unfold notify; split <;> rfl
@[simp] theorem notify_snap (h : Half) (s : State) : (notify h s).snap = s.snap := by unfold notify; split <;> rfl
@[simp] theorem notify_cfg (h : Half) (s : State) : (notify h s).cfg = s.cfg := by unfold notify; split <;> rfl
@[simp] theorem notify_rptValid (h : Half) (s : State) : (notify h s).rptValid = s.rptValid := by unfold notify; split <;> rfl
@[simp] theorem notify_rptLen (h : Half) (s : State) : (notify h s).rptLen = s.rptLen := by unfold notify; split <;> rfl
@[simp] theorem notify_sb (h : Half) (s : State) : (notify h s).sb = s.sb := by unfold notify; split <;> rfl
@[simp] theorem notify_rb (h : Half) (s : State) : (notify h s).rb = s.rb := by unfold notify; split <;> rfl
@[simp] theorem notify_scr (h : Half) (s : State) : (notify h s).scr = s.scr := by unfold notify; split <;> rfl
@[simp] theorem notify_work (h : Half) (s : State) : (notify h s).work = s.work := by unfold notify; split <;> rfl

@[simp] theorem wake_params (s : State) : (wake s).params = s.params := by unfold wake; split <;> rfl
@[simp] theorem wake_agenda (s : State) : (wake s).agenda = s.agenda := by unfold wake; split <;> rfl
@[simp] theorem wake_runCount (s : State) : (wake s).runCount = s.runCount := by unfold wake; split <;> rfl
@[simp] theorem wake_astate (s : State) : (wake s).astate = s.astate := by unfold wake; split <;> rfl
@[simp] theorem wake_trigEn (s : State) : (wake s).trigEn = s.trigEn := by unfold wake; split <;> rfl
@[simp] theorem wake_noteEn (s : State) : (wake s).noteEn = s.noteEn := by unfold wake; split <;> rfl
@[simp] theorem wake_wrPtr (s : State) : (wake s).wrPtr = s.wrPtr := by unfold wake; split <;> rfl
@[simp] theorem wake_served (s : State) : (wake s).served = s.served := by unfold wake; split <;> rfl
@[simp] theorem wake_sigHalf (s : State) : (wake s).sigHalf = s.sigHalf := by unfold wake; split <;> rfl
@[simp] theorem wake_cfg (s : State) : (wake s).cfg = s.cfg := by unfold wake; split <;> rfl
@[simp] theorem wake_rptValid (s : State) : (wake s).rptValid = s.rptValid := by unfold wake; split <;> rfl
@[simp] theorem wake_rptLen (s : State) : (wake s).rptLen = s.rptLen := by unfold wake; split <;> rfl
@[simp] theorem wake_sb (s : State) : (wake s).sb = s.sb := by unfold wake; split <;> rfl
@[simp] theorem wake_rb (s : State) : (wake s).rb = s.rb := by unfold wake; split <;> rfl
@[simp] theorem wake_scr (s : State) : (wake s).scr = s.scr := by unfold wake; split <;> rfl
@[simp] theorem wake_work (s : State) : (wake s).work = s.work := by unfold wake; split <;> rfl

@[simp] theorem setFmt_rb (v : FmtRegs) (r : Run) : (r.setFmt v).rb = r.rb := rfl
@[simp] theorem setFmt_scr (v : FmtRegs) (r : Run) : (r.setFmt v).scr = r.scr := rfl
@[simp] theorem setFmt_scanIdx (v : FmtRegs) (r : Run) : (r.setFmt v).work.scanIdx = r.work.scanIdx := rfl
@[simp] theorem setFmt_gpio (v : FmtRegs) (r : Run) : (r.setFmt v).work.gpio = r.work.gpio := rfl
@[simp] theorem setFmt_spi (v : FmtRegs) (r : Run) : (r.setFmt v).work.spi = r.work.spi := rfl
@[simp] theorem setFmt_i2c (v : FmtRegs) (r : Run) : (r.setFmt v).work.i2c = r.work.i2c := rfl
@[simp] theorem setFmt_uart (v : FmtRegs) (r : Run) : (r.setFmt v).work.uart = r.work.uart := rfl
@[simp] theorem setFmt_fmt (v : FmtRegs) (r : Run) : (r.setFmt v).work.fmt = v := rfl

@[simp] theorem setGpio_rb (v : GpioRegs) (r : Run) : (r.setGpio v).rb = r.rb := rfl
@[simp] theorem setGpio_scr (v : GpioRegs) (r : Run) : (r.setGpio v).scr = r.scr := rfl
@[simp] theorem setGpio_scanIdx (v : GpioRegs) (r : Run) : (r.setGpio v).work.scanIdx = r.work.scanIdx := rfl
@[simp] theorem setGpio_gpio (v : GpioRegs) (r : Run) : (r.setGpio v).work.gpio = v := rfl
@[simp] theorem setGpio_spi (v : GpioRegs) (r : Run) : (r.setGpio v).work.spi = r.work.spi := rfl
@[simp] theorem setGpio_i2c (v : GpioRegs) (r : Run) : (r.setGpio v).work.i2c = r.work.i2c := rfl
@[simp] theorem setGpio_uart (v : GpioRegs) (r : Run) : (r.setGpio v).work.uart = r.work.uart := rfl
@[simp] theorem setGpio_fmt (v : GpioRegs) (r : Run) : (r.setGpio v).work.fmt = r.work.fmt := rfl

@[simp] theorem setSpi_rb (v : SpiRegs) (r : Run) : (r.setSpi v).rb = r.rb := rfl
@[simp] theorem setSpi_scr (v : SpiRegs) (r : Run) : (r.setSpi v).scr = r.scr := rfl
@[simp] theorem setSpi_scanIdx (v : SpiRegs) (r : Run) : (r.setSpi v).work.scanIdx = r.work.scanIdx := rfl
@[simp] theorem setSpi_gpio (v : SpiRegs) (r : Run) : (r.setSpi v).work.gpio = r.work.gpio := rfl
@[simp] theorem setSpi_spi (v : SpiRegs) (r : Run) : (r.setSpi v).work.spi = v := rfl
@[simp] theorem setSpi_i2c (v : SpiRegs) (r : Run) : (r.setSpi v).work.i2c = r.work.i2c := rfl
@[simp] theorem setSpi_uart (v : SpiRegs) (r : Run) : (r.setSpi v).work.uart = r.work.uart := rfl
@[simp] theorem setSpi_fmt (v : SpiRegs) (r : Run) : (r.setSpi v).work.fmt = r.work.fmt := rfl

@[simp] theorem setI2c_rb (v : I2cRegs) (r : Run) : (r.setI2c v).rb = r.rb := rfl
@[simp] theorem setI2c_scr (v : I2cRegs) (r : Run) : (r.setI2c v).scr = r.scr := rfl
@[simp] theorem setI2c_scanIdx (v : I2cRegs) (r : Run) : (r.setI2c v).work.scanIdx = r.work.scanIdx := rfl
@[simp] theorem setI2c_gpio (v : I2cRegs) (r : Run) : (r.setI2c v).work.gpio = r.work.gpio := rfl
@[simp] theorem setI2c_spi (v : I2cRegs) (r : Run) : (r.setI2c v).work.spi = r.work.spi := rfl
@[simp] theorem setI2c_i2c (v : I2cRegs) (r : Run) : (r.setI2c v).work.i2c = v := rfl
@[simp] theorem setI2c_uart (v : I2cRegs) (r : Run) : (r.setI2c v).work.uart = r.work.uart := rfl
@[simp] theorem setI2c_fmt (v : I2cRegs) (r : Run) : (r.setI2c v).work.fmt = r.work.fmt := rfl

@[simp] theorem setUart_rb (v : UartRegs) (r : Run) : (r.setUart v).rb = r.rb := rfl
@[simp] theorem setUart_scr (v : UartRegs) (r : Run) : (r.setUart v).scr = r.scr := rfl
@[simp] theorem setUart_scanIdx (v : UartRegs) (r : Run) : (r.setUart v).work.scanIdx = r.work.scanIdx := rfl
@[simp] theorem setUart_gpio (v : UartRegs) (r : Run) : (r.setUart v).work.gpio = r.work.gpio := rfl
@[simp] theorem setUart_spi (v : UartRegs) (r : Run) : (r.setUart v).work.spi = r.work.spi := rfl
@[simp] theorem setUart_i2c (v : UartRegs) (r : Run) : (r.setUart v).work.i2c = r.work.i2c := rfl
@[simp] theorem setUart_uart (v : UartRegs) (r : Run) : (r.setUart v).work.uart = v := rfl
@[simp] theorem setUart_fmt (v : UartRegs) (r : Run) : (r.setUart v).work.fmt = r.work.fmt := rfl

@[simp] theorem setIdx_rb (v : Nat) (r : Run) : (r.setIdx v).rb = r.rb := rfl
@[simp] theorem setIdx_scr (v : Nat) (r : Run) : (r.setIdx v).scr = r.scr := rfl
@[simp] theorem setIdx_scanIdx (v : Nat) (r : Run) : (r.setIdx v).work.scanIdx = v := rfl
@[simp] theorem setIdx_gpio (v : Nat) (r : Run) : (r.setIdx v).work.gpio = r.work.gpio := rfl
@[simp] theorem setIdx_spi (v : Nat) (r : Run) : (r.setIdx v).work.spi = r.work.spi := rfl
@[simp] theorem setIdx_i2c (v : Nat) (r : Run) : (r.setIdx v).work.i2c = r.work.i2c := rfl
@[simp] theorem setIdx_uart (v : Nat) (r : Run) : (r.setIdx v).work.uart = r.work.uart := rfl
@[simp] theorem setIdx_fmt (v : Nat) (r : Run) : (r.setIdx v).work.fmt = r.work.fmt := rfl

end Sys2Proof.Laws
end

