-- ==== Sys2Proof/Laws/Formatter.lean ====
section
/-!
SUPPORT. What the bounded writer and the scan loop do (spec/47_formatter.md R260, R261, R264; spec/42_dispatcher.md R172):
one lemma per shared operation that says everything it can do.
-/
namespace Sys2Proof.Laws

open Sys2Proof.Machine

/-- The width of an append, as one minimum (R261, R262). -/
theorem appendWidth_eq (cap reserve k n : Nat) : appendWidth cap reserve k n = min n (cap - reserve - k) := by
  unfold appendWidth; split <;> omega

theorem appendWidth_le_length (cap reserve k n : Nat) : appendWidth cap reserve k n ≤ n := by
  rw [appendWidth_eq]; omega

/-- Naming OutputExhausted changes nothing: an append is its writes. -/
theorem append_eq (p : Params) (t : Text) (r : Run) : append p t r = appendWrites p t r := by
  unfold append; split <;> rfl

theorem scrAppend_eq (p : Params) (t : Text) (r : Run) : scrAppend p t r = scrAppendWrites p t r := by
  unfold scrAppend; split <;> rfl

@[simp] theorem append_scr (p : Params) (t : Text) (r : Run) : (append p t r).scr = r.scr := by rw [append_eq]; rfl
@[simp] theorem append_gpio (p : Params) (t : Text) (r : Run) : (append p t r).work.gpio = r.work.gpio := by
  rw [append_eq]; rfl
@[simp] theorem append_spi (p : Params) (t : Text) (r : Run) : (append p t r).work.spi = r.work.spi := by
  rw [append_eq]; rfl
@[simp] theorem append_i2c (p : Params) (t : Text) (r : Run) : (append p t r).work.i2c = r.work.i2c := by
  rw [append_eq]; rfl
@[simp] theorem append_uart (p : Params) (t : Text) (r : Run) : (append p t r).work.uart = r.work.uart := by
  rw [append_eq]; rfl
@[simp] theorem append_scanIdx (p : Params) (t : Text) (r : Run) :
    (append p t r).work.scanIdx = r.work.scanIdx := by rw [append_eq]; rfl
@[simp] theorem append_first (p : Params) (t : Text) (r : Run) :
    (append p t r).work.fmt.first = r.work.fmt.first := by rw [append_eq]; rfl
theorem append_cur (p : Params) (t : Text) (r : Run) :
    (append p t r).work.fmt.cur =
      r.work.fmt.cur + appendWidth p.reportCap p.fmtReserve r.work.fmt.cur t.length := by rw [append_eq]; rfl
theorem append_rb (p : Params) (t : Text) (r : Run) :
    (append p t r).rb = boundedWrite p.reportCap p.fmtReserve r.rb r.work.fmt.cur t := by rw [append_eq]; rfl

@[simp] theorem scrAppend_rb (p : Params) (t : Text) (r : Run) : (scrAppend p t r).rb = r.rb := by
  rw [scrAppend_eq]; rfl
@[simp] theorem scrAppend_fmt (p : Params) (t : Text) (r : Run) : (scrAppend p t r).work.fmt = r.work.fmt := by
  rw [scrAppend_eq]; rfl
@[simp] theorem scrAppend_spi (p : Params) (t : Text) (r : Run) : (scrAppend p t r).work.spi = r.work.spi := by
  rw [scrAppend_eq]; rfl
@[simp] theorem scrAppend_i2c (p : Params) (t : Text) (r : Run) : (scrAppend p t r).work.i2c = r.work.i2c := by
  rw [scrAppend_eq]; rfl
@[simp] theorem scrAppend_uart (p : Params) (t : Text) (r : Run) : (scrAppend p t r).work.uart = r.work.uart := by
  rw [scrAppend_eq]; rfl
@[simp] theorem scrAppend_chan (p : Params) (t : Text) (r : Run) :
    (scrAppend p t r).work.gpio.chan = r.work.gpio.chan := by rw [scrAppend_eq]; rfl
@[simp] theorem scrAppend_hasTr (p : Params) (t : Text) (r : Run) :
    (scrAppend p t r).work.gpio.hasTr = r.work.gpio.hasTr := by rw [scrAppend_eq]; rfl
@[simp] theorem scrAppend_sep (p : Params) (t : Text) (r : Run) :
    (scrAppend p t r).work.gpio.sep = r.work.gpio.sep := by rw [scrAppend_eq]; rfl
theorem scrAppend_scrCur (p : Params) (t : Text) (r : Run) :
    (scrAppend p t r).work.gpio.scrCur =
      r.work.gpio.scrCur + appendWidth p.scratchCap p.fmtReserve r.work.gpio.scrCur t.length := by
  rw [scrAppend_eq]; rfl
theorem scrAppend_scr (p : Params) (t : Text) (r : Run) :
    (scrAppend p t r).scr = boundedWrite p.scratchCap p.fmtReserve r.scr r.work.gpio.scrCur t := by
  rw [scrAppend_eq]; rfl

@[simp] theorem clearFirst_rb (r : Run) : (clearFirst r).rb = r.rb := rfl
@[simp] theorem clearFirst_scr (r : Run) : (clearFirst r).scr = r.scr := rfl
@[simp] theorem clearFirst_cur (r : Run) : (clearFirst r).work.fmt.cur = r.work.fmt.cur := rfl
@[simp] theorem clearFirst_first (r : Run) : (clearFirst r).work.fmt.first = false := rfl
@[simp] theorem clearFirst_gpio (r : Run) : (clearFirst r).work.gpio = r.work.gpio := rfl
@[simp] theorem clearFirst_spi (r : Run) : (clearFirst r).work.spi = r.work.spi := rfl
@[simp] theorem clearFirst_i2c (r : Run) : (clearFirst r).work.i2c = r.work.i2c := rfl
@[simp] theorem clearFirst_uart (r : Run) : (clearFirst r).work.uart = r.work.uart := rfl

@[simp] theorem initRun_rb (r : Run) : (initRun r).rb = r.rb := rfl
@[simp] theorem initRun_scr (r : Run) : (initRun r).scr = r.scr := rfl
@[simp] theorem initRun_fmt (r : Run) : (initRun r).work.fmt = ⟨0, true⟩ := rfl

@[simp] theorem finish_scr (r : Run) : (finish r).scr = r.scr := rfl
@[simp] theorem finish_cur (r : Run) : (finish r).work.fmt.cur = r.work.fmt.cur + 1 := rfl
@[simp] theorem finish_rb (r : Run) :
    (finish r).rb = writeCell blankByte r.rb r.work.fmt.cur newline := rfl

@[simp] theorem ofState_rb (s : State) : (Run.ofState s).rb = s.rb := rfl
@[simp] theorem ofState_scr (s : State) : (Run.ofState s).scr = s.scr := rfl
@[simp] theorem ofState_work (s : State) : (Run.ofState s).work = s.work := rfl

@[simp] theorem forgetScratch_rb (s : State) (r : Run) : (forgetScratch s r).rb = r.rb := rfl
@[simp] theorem forgetScratch_scr (s : State) (r : Run) : (forgetScratch s r).scr =
    forgetFrom (Config.freeScratchByte s.runCount) 0 s.params.scratchCap r.scr := rfl
@[simp] theorem forgetScratch_work (s : State) (r : Run) : (forgetScratch s r).work = r.work := rfl

/-- The Report handed over is what the run wrote below its cursor (R164). -/
theorem reportBytes_afterRun (d : State → Run → Run) (s : State) :
    reportBytes (afterRun d s) = readBytes (runResult d s).rb 0 (runResult d s).work.fmt.cur :=
  readBytes_forgetFrom _ _ _

/-- A bounded write keeps the canonical form. -/
theorem boundedWrite_wf {m : List Host.Cell} (h : Memory.wf blankByte m) (cap reserve k : Nat) (t : Text) :
    Memory.wf blankByte (boundedWrite cap reserve m k t) := writeBytes_wf h _ _

/-- A bounded write lists no element at or above the capacity. -/
theorem boundedWrite_bound {m : List Host.Cell} {cap : Nat} (h : ∀ c ∈ m, c.1 < cap) (reserve k : Nat) (t : Text)
    (hk : k ≤ cap) : ∀ c ∈ boundedWrite cap reserve m k t, c.1 < cap := by
  refine writeBytes_bound h _ _ ?_
  simp only [List.length_take, appendWidth_eq]
  omega

/-- Everything a bounded write does to the bytes (R261): the prefix that fits stands at the cursor, the rest is as
before. -/
theorem readCell_boundedWrite {m : List Host.Cell} (h : Memory.wf blankByte m) (cap reserve k : Nat) (t : Text)
    (c : Nat) :
    readCell blankByte (boundedWrite cap reserve m k t) c =
      if k ≤ c ∧ c < k + appendWidth cap reserve k t.length then t.getD (c - k) blankByte
      else readCell blankByte m c := by
  have hw := appendWidth_le_length cap reserve k t.length
  rw [boundedWrite, readCell_writeBytes h, List.length_take, Nat.min_eq_left hw]
  split
  · rename_i hc
    rw [List.getD_eq_getElem?_getD, List.getD_eq_getElem?_getD, List.getElem?_take_of_lt (by omega)]
  · rfl

/-- Passing on a run with its registers at hand is passing it on. -/
@[simp] theorem andThen_eq (r : Run) (k : Run → Run) : r.andThen k = k r := rfl

@[simp] theorem scan_zero (f : Nat → Run → Run) (i : Nat) (r : Run) : scan f i 0 r = r.setIdx i := rfl

@[simp] theorem scan_succ (f : Nat → Run → Run) (i n : Nat) (r : Run) :
    scan f i (n + 1) r = scan f (i + 1) n (f i (r.setIdx i)) := rfl

/-- Induction over a scan: a property of the run that holds at the start at index `i` and that every step carries to
the next index holds at the end. -/
theorem scan_induct {P : Nat → Run → Prop} {f : Nat → Run → Run} {i n : Nat} {r : Run}
    (hidx : ∀ j v r, P j r → P j (r.setIdx v)) (h0 : P i r)
    (hstep : ∀ j r, i ≤ j → j < i + n → P j r → P (j + 1) (f j r)) : P (i + n) (scan f i n r) := by
  induction n generalizing i r with
  | zero => exact hidx _ _ _ h0
  | succ n ih =>
    rw [scan_succ, show i + (n + 1) = i + 1 + n by omega]
    exact ih (hstep i _ le_rfl (by omega) (hidx _ _ _ h0)) fun j r h1 h2 hp => hstep j r (by omega) (by omega) hp

end Sys2Proof.Laws
end

