-- ==== Sys2Proof/Laws/Accumulate.lean ====
section
/-!
SUPPORT. What has been written to a bounded buffer so far (spec/47_formatter.md R261), and how an append, a comma and an
event extend it; the same for the scratch.
-/
namespace Sys2Proof.Laws

open Sys2Proof.Machine Sys2Proof.Safety

/-- A bounded buffer `m` of capacity `cap` with cursor `k` holds as much of `text` as the threshold allows, and above the
cursor reads as `m0` does. -/
structure Holds (cap reserve : Nat) (m0 m : List Host.Cell) (k : Nat) (text : Text) : Prop where
  wf : Memory.wf blankByte m
  cur : k = min (cap - reserve) text.length
  bytes : readBytes m 0 k = text.take (cap - reserve)
  above : ∀ a, k ≤ a → readCell blankByte m a = readCell blankByte m0 a
  bound : (∀ c ∈ m0, c.1 < cap) → ∀ c ∈ m, c.1 < cap

/-- A buffer with its cursor at 0 holds the empty text. -/
theorem holds_nil {cap reserve : Nat} {m : List Host.Cell} (h : Memory.wf blankByte m) :
    Holds cap reserve m m 0 [] :=
  ⟨h, by simp, by simp, fun _ _ => rfl, fun hb => hb⟩

/-- A bounded write extends the text held. -/
theorem Holds.write {cap reserve : Nat} {m0 m : List Host.Cell} {k : Nat} {text : Text}
    (h : Holds cap reserve m0 m k text) (t : Text) :
    Holds cap reserve m0 (boundedWrite cap reserve m k t) (k + appendWidth cap reserve k t.length) (text ++ t) := by
  have hk := h.cur
  have hw := appendWidth_eq cap reserve k t.length
  refine ⟨boundedWrite_wf h.wf _ _ _ _, ?_, ?_, fun a ha => ?_, fun hb => ?_⟩
  · rw [List.length_append, hw]; omega
  · rw [readBytes_add, Nat.zero_add]
    have hold : readBytes (boundedWrite cap reserve m k t) 0 k = text.take (cap - reserve) := by
      rw [← h.bytes]
      refine readBytes_congr fun c _ hc => ?_
      rw [readCell_boundedWrite h.wf, if_neg (by omega)]
    have hlen : (t.take (appendWidth cap reserve k t.length)).length = appendWidth cap reserve k t.length := by
      rw [List.length_take]; exact Nat.min_eq_left (appendWidth_le_length _ _ _ _)
    have hnew : readBytes (boundedWrite cap reserve m k t) k (appendWidth cap reserve k t.length) =
        t.take (appendWidth cap reserve k t.length) := by
      have := readBytes_writeBytes h.wf k (t.take (appendWidth cap reserve k t.length))
      rwa [hlen] at this
    rw [hold, hnew, List.take_append]
    congr 1
    rw [hw]
    by_cases hc : text.length ≤ cap - reserve
    · rw [show cap - reserve - text.length = cap - reserve - k by omega]
      exact List.take_eq_take_iff.2 (by omega)
    · rw [show cap - reserve - text.length = 0 by omega, show cap - reserve - k = 0 by omega]
      simp
  · rw [readCell_boundedWrite h.wf, if_neg (by omega)]
    exact h.above a (by omega)
  · exact boundedWrite_bound (h.bound hb) _ _ _ (by omega)

/-- RB of a run holds `text` on top of the memory `m0`. -/
def Wrote (p : Params) (m0 : List Host.Cell) (r : Run) (text : Text) : Prop :=
  Holds p.reportCap p.fmtReserve m0 r.rb r.work.fmt.cur text

/-- INIT starts with the empty text (R260). -/
theorem wrote_init {p : Params} {r : Run} (h : Memory.wf blankByte r.rb) : Wrote p r.rb (initRun r) [] := holds_nil h

/-- An append extends the text (R261). -/
theorem Wrote.append {p : Params} {m0 : List Host.Cell} {r : Run} {text : Text} (h : Wrote p m0 r text) (t : Text) :
    Wrote p m0 (append p t r) (text ++ t) := by
  unfold Wrote
  rw [append_rb, append_cur]
  exact Holds.write h t

/-- A run with the same RB and cursor holds the same text. -/
theorem Wrote.congr {p : Params} {m0 : List Host.Cell} {r r' : Run} {text : Text} (h : Wrote p m0 r text)
    (hrb : r'.rb = r.rb) (hcur : r'.work.fmt.cur = r.work.fmt.cur) : Wrote p m0 r' text := by
  unfold Wrote
  rw [hrb, hcur]
  exact h

/-- The texts of a list with one more at the end, joined (R106). -/
theorem joinComma_concat (ts : List Text) (t : Text) :
    joinComma (ts ++ [t]) = if ts = [] then t else joinComma ts ++ comma ++ t := by
  induction ts with
  | nil => rfl
  | cons u us ih =>
    cases us with
    | nil => simp [joinComma]
    | cons v vs =>
      have : joinComma (u :: (v :: vs ++ [t])) = u ++ comma ++ joinComma (v :: vs ++ [t]) := rfl
      rw [List.cons_append, this, ih]
      simp [joinComma]

/-- RB of a run holds `head` and the event texts `evs`, joined, and `first` says whether there is none yet. -/
def Emitted (p : Params) (m0 : List Host.Cell) (head : Text) (r : Run) (evs : List Text) : Prop :=
  Wrote p m0 r (head ++ joinComma evs) ∧ r.work.fmt.first = evs.isEmpty

/-- Emitting one event adds its text to the list (R205, R228, R246). -/
theorem Emitted.emitEvent {p : Params} {m0 : List Host.Cell} {head : Text} {r : Run} {evs : List Text}
    (h : Emitted p m0 head r evs) (t : Text) : Emitted p m0 head (emitEvent p t r) (evs ++ [t]) := by
  obtain ⟨hw, hf⟩ := h
  refine ⟨?_, by simp [Machine.emitEvent]⟩
  have key : Wrote p m0 (Machine.append p t (appendComma p r)) (head ++ joinComma (evs ++ [t])) := by
    rw [joinComma_concat]
    unfold appendComma
    cases evs with
    | nil =>
      rw [hf]
      simpa [joinComma] using hw.append t
    | cons e es =>
      rw [hf]
      simpa [List.append_assoc] using (hw.append comma).append t
  exact key.congr rfl rfl

/-- Emitting changes neither the scratch nor any decoder's registers. -/
@[simp] theorem emitEvent_scr (p : Params) (t : Text) (r : Run) : (emitEvent p t r).scr = r.scr := by
  unfold emitEvent appendComma; split <;> simp
@[simp] theorem emitEvent_gpio (p : Params) (t : Text) (r : Run) : (emitEvent p t r).work.gpio = r.work.gpio := by
  unfold emitEvent appendComma; split <;> simp
@[simp] theorem emitEvent_spi (p : Params) (t : Text) (r : Run) : (emitEvent p t r).work.spi = r.work.spi := by
  unfold emitEvent appendComma; split <;> simp
@[simp] theorem emitEvent_i2c (p : Params) (t : Text) (r : Run) : (emitEvent p t r).work.i2c = r.work.i2c := by
  unfold emitEvent appendComma; split <;> simp
@[simp] theorem emitEvent_uart (p : Params) (t : Text) (r : Run) : (emitEvent p t r).work.uart = r.work.uart := by
  unfold emitEvent appendComma; split <;> simp

/-- SCR of a run holds `text` on top of the memory `m0`. -/
def ScrWrote (p : Params) (m0 : List Host.Cell) (r : Run) (text : Text) : Prop :=
  Holds p.scratchCap p.fmtReserve m0 r.scr r.work.gpio.scrCur text

/-- A scratch append extends the text (R261, R266). -/
theorem ScrWrote.scrAppend {p : Params} {m0 : List Host.Cell} {r : Run} {text : Text} (h : ScrWrote p m0 r text)
    (t : Text) : ScrWrote p m0 (scrAppend p t r) (text ++ t) := by
  unfold ScrWrote
  rw [scrAppend_scr, scrAppend_scrCur]
  exact Holds.write h t

/-- A run with the same SCR and scratch cursor holds the same text. -/
theorem ScrWrote.congr {p : Params} {m0 : List Host.Cell} {r r' : Run} {text : Text} (h : ScrWrote p m0 r text)
    (hscr : r'.scr = r.scr) (hcur : r'.work.gpio.scrCur = r.work.gpio.scrCur) : ScrWrote p m0 r' text := by
  unfold ScrWrote
  rw [hscr, hcur]
  exact h

/-- FINISH after a text: the cursor counts the newline, the Report is the bounded text and the newline, and nothing
above it changes (R264). -/
theorem Wrote.finish {p : Params} {m0 : List Host.Cell} {r : Run} {text : Text} (h : Wrote p m0 r text) :
    readBytes (finish r).rb 0 (finish r).work.fmt.cur = reportOf p text ∧
      (Machine.finish r).work.fmt.cur = min (p.reportCap - p.fmtReserve) text.length + 1 ∧
      ∀ a, (Machine.finish r).work.fmt.cur ≤ a →
        readCell blankByte (Machine.finish r).rb a = readCell blankByte m0 a := by
  have hcur := h.cur
  refine ⟨?_, by rw [finish_cur, ← hcur], fun a ha => ?_⟩
  · rw [finish_cur, finish_rb, readBytes_add, Nat.zero_add, reportOf, ← h.bytes]
    congr 1
    · exact readBytes_congr fun c _ hc => by rw [readCell_writeCell h.wf.1, if_neg (by omega)]
    · simp [readBytes, readCell_writeCell h.wf.1]
  · rw [finish_cur] at ha
    rw [finish_rb, readCell_writeCell h.wf.1, if_neg (by omega)]
    exact h.above a (by omega)

end Sys2Proof.Laws
end

