-- ==== Sys2Proof/Laws/Arbiter.lean ====
section
/-!
SUPPORT. What each turn can do (spec/41_arbiter.md R140 to R146, spec/42_dispatcher.md R161, R162): one inversion lemma per
shared operation.
-/
namespace Sys2Proof.Laws

open Sys2Proof.Machine

/-- NOTIFY posts or is dropped (R143). -/
theorem notify_cases (h : Half) (s : State) :
    (s.noteEn = true ∧ s.served = false ∧ notify h s = postSignal h s) ∨
      ((s.noteEn = false ∨ s.served = true) ∧ notify h s = s) := by
  unfold notify
  cases hn : s.noteEn <;> cases hs : s.served <;> simp

/-- WAKE claims the half or holds (R161). -/
theorem wake_cases (s : State) :
    (s.sigPending = true ∧ s.rptValid = false ∧ s.decBusy = false ∧ wake s = claimHalf s) ∨
      (wakeEnabled s = false ∧ wake s = s) := by
  unfold wake
  cases hw : wakeEnabled s
  · exact .inr ⟨rfl, by simp⟩
  · left
    simp only [wakeEnabled, Bool.and_eq_true, Bool.not_eq_true'] at hw
    exact ⟨hw.1.1, hw.1.2, hw.2, by simp⟩

/-- A TICK that answers a next state did nothing, or stored a Sample below `N` and moved the pointer in one of three
ways (R142, R145). -/
theorem tick_next {p : Sample} {s t : State} (h : tick p s = .next t) :
    (s.trigEn = false ∧ t = s) ∨
      (s.trigEn = true ∧ s.wrPtr < s.params.bufSize ∧ t = advancePointer (storeSample p s)) := by
  unfold tick at h
  split at h
  · split at h
    · exact .inr ⟨by assumption, by assumption, by injection h with h; exact h.symm⟩
    · cases h
  · rename_i hn
    exact .inl ⟨by simpa using hn, by injection h with h; exact h.symm⟩

/-- The three moves of the write pointer (R142). -/
theorem advancePointer_cases (s : State) :
    (s.wrPtr + 1 = s.params.half ∧ advancePointer s = notify .first { s with wrPtr := s.params.half }) ∨
      (s.wrPtr + 1 ≠ s.params.half ∧ s.wrPtr + 1 = s.params.bufSize ∧
        advancePointer s = { notify .second { s with wrPtr := 0 } with trigEn := false }) ∨
      (s.wrPtr + 1 ≠ s.params.half ∧ s.wrPtr + 1 ≠ s.params.bufSize ∧
        advancePointer s = { s with wrPtr := s.wrPtr + 1 }) := by
  unfold advancePointer
  split
  · exact .inl ⟨by assumption, rfl⟩
  · split
    · exact .inr (.inl ⟨by assumption, by assumption, rfl⟩)
    · exact .inr (.inr ⟨by assumption, by assumption, rfl⟩)

/-- A RUN that answers a next state ran its decoder, or was not enabled (R162). -/
theorem runWith_next {d : State → Run → Run} {s t : State} (h : runWith d s = .next t) :
    s.params.wf = true ∧ ((s.decBusy = true ∧ t = afterRun d s) ∨ (s.decBusy = false ∧ t = s)) := by
  unfold runWith runEnabled at h
  split at h
  · refine ⟨by assumption, ?_⟩
    split at h
    · exact .inl ⟨by assumption, by injection h with h; exact h.symm⟩
    · rename_i hn
      exact .inr ⟨by simpa using hn, by injection h with h; exact h.symm⟩
  · cases h

/-- An enabled RUN of a legal instance answers the state after the run (R162). -/
theorem runWith_enabled {d : State → Run → Run} {s : State} (hp : s.params.wf = true) (hb : s.decBusy = true) :
    runWith d s = .next (afterRun d s) := by
  simp [runWith, runEnabled, hp, hb]

/-- A RUN never faults, and refuses only an illegal instance. -/
theorem runWith_refused {d : State → Run → Run} {s : State} (hp : s.params.wf = false) :
    runWith d s = .refused .illegalInstance := by
  simp [runWith, hp]

/-- The decoder a tag selects (R101). -/
def decoderOf : Instr → State → Run → Run
  | .runGpio => decodeGpio
  | .runSpi => decodeSpi
  | .runI2c => decodeI2c
  | .runUart => decodeUart
  | _ => decodeUnknown

/-- Every tag decodes to an operation that is RUN with the decoder the tag selects (R101, R162). -/
theorem exec_decodeTag (t : Tag) (s : State) : exec (decode (.tag4 t)) s = runWith (decoderOf (decodeTag t)) s := by
  unfold decode decodeTag
  simp only
  split
  · rfl
  split
  · rfl
  split
  · rfl
  split
  · rfl
  split <;> rfl

/-- What a command word can do (R120 to R127): it always answers a next state, which is the same state, the state
with one configuration, or the armed state. -/
theorem command_cases (w : Word32) (s : State) :
    command w s = .next s ∨
      (∃ t, command w s = .next (setProto t s) ∧ t ≤ 3#4) ∨
      (∃ m, command w s = .next (setSpiMode m (setProto 1#4 s))) ∨
      (∃ b, command w s = .next (setUartBaud b (setProto 3#4 s)) ∧ b ≠ 0#24) ∨
      (s.astate = .idle ∧ command w s = .next { arm s with astate := .capturing }) := by
  unfold command decode decodeCmd
  simp only
  split
  · cases ha : s.astate
    · right; right; right; right
      exact ⟨rfl, by simp [exec, execStart, ha]⟩
    · left; simp [exec, execStart, ha]
  split
  · unfold decodeConfigure
    split
    · exact .inr (.inl ⟨0#4, rfl, by decide⟩)
    split
    · exact .inr (.inr (.inl ⟨_, rfl⟩))
    split
    · exact .inr (.inl ⟨2#4, rfl, by decide⟩)
    split
    · by_cases hb : fieldParam w = 0#24
      · exact .inr (.inl ⟨3#4, by simp [exec, execCfgUart, hb], by decide⟩)
      · exact .inr (.inr (.inr (.inl ⟨_, by simp [exec, execCfgUart, hb], hb⟩)))
    split <;> exact .inl rfl
  split
  · exact .inl rfl
  split
  · exact .inl rfl
  split <;> exact .inl rfl

/-- The RUN turn runs the decoder its snapshot selects, or holds (R162). -/
theorem runTurn_eq (s : State) :
    runTurn s = if s.decBusy then runWith (decoderOf (decodeTag s.snap.proto)) s else .next s := by
  unfold runTurn runEnabled
  split
  · exact exec_decodeTag _ _
  · rfl

/-- What a step is, by the agenda (R140). -/
theorem step_nil {s : State} (h : s.agenda = []) : step s = if s.decBusy then runTurn s else .next (wake s) := by
  unfold step nextTurn
  rw [h]
  rfl

theorem step_cons {s : State} {t : Turn} {rest : List Turn} (h : s.agenda = t :: rest) :
    step s = takeTurn t { s with agenda := rest } := by
  unfold step nextTurn
  rw [h]

/-- Everything a step can do, said once: the agenda loses its first turn, if it has one, and the state `u` so left takes
one of the turns. -/
theorem step_next {s t : State} (h : step s = .next t) :
    ∃ rest, let u := { s with agenda := rest }
      (∃ w, s.agenda = .cmd w :: rest ∧ command w u = .next t) ∨
      (s.agenda = .take :: rest ∧ t = takeReport u) ∨
      (∃ p, s.agenda = .tick p :: rest ∧ tick p u = .next t) ∨
      ((s.agenda = .wake :: rest ∨ (s.agenda = [] ∧ rest = [] ∧ s.decBusy = false)) ∧ t = wake u) ∨
      ((s.agenda = .run :: rest ∨ (s.agenda = [] ∧ rest = [])) ∧ s.decBusy = true ∧ s.params.wf = true ∧
        t = afterRun (decoderOf (decodeTag s.snap.proto)) u) ∨
      (s.agenda = .run :: rest ∧ s.decBusy = false ∧ t = u) ∨
      (s.agenda = .reset :: rest ∧ t = resetPin u) := by
  have hrun : ∀ {u v : State}, runTurn u = .next v →
      (u.decBusy = true ∧ u.params.wf = true ∧ v = afterRun (decoderOf (decodeTag u.snap.proto)) u) ∨
        (u.decBusy = false ∧ v = u) := by
    intro u v hv
    rw [runTurn_eq] at hv
    split at hv
    · rename_i hb
      rcases runWith_next hv with ⟨hw, ⟨-, rfl⟩ | ⟨hf, -⟩⟩
      · exact .inl ⟨hb, hw, rfl⟩
      · simp [hb] at hf
    · rename_i hn
      exact .inr ⟨by simpa using hn, by injection hv with hv; exact hv.symm⟩
  cases ha : s.agenda with
  | nil =>
    refine ⟨[], ?_⟩
    have hs : ({ s with agenda := [] } : State) = s := by rw [← ha]
    simp only [hs]
    rw [step_nil ha] at h
    split at h
    · rename_i hb
      rcases hrun h with ⟨-, hw, rfl⟩ | ⟨hf, -⟩
      · exact .inr (.inr (.inr (.inr (.inl ⟨.inr (by simp), hb, hw, rfl⟩))))
      · simp [hb] at hf
    · rename_i hb
      injection h with h
      exact .inr (.inr (.inr (.inl ⟨.inr (by simpa using hb), h.symm⟩)))
  | cons u rest =>
    refine ⟨rest, ?_⟩
    rw [step_cons ha] at h
    cases u with
    | cmd w => exact .inl ⟨w, rfl, h⟩
    | take => injection h with h; exact .inr (.inl ⟨rfl, h.symm⟩)
    | tick p => exact .inr (.inr (.inl ⟨p, rfl, h⟩))
    | wake => injection h with h; exact .inr (.inr (.inr (.inl ⟨.inl rfl, h.symm⟩)))
    | run =>
      rcases hrun h with ⟨hb, hw, rfl⟩ | ⟨hb, rfl⟩
      · exact .inr (.inr (.inr (.inr (.inl ⟨.inl rfl, hb, hw, rfl⟩))))
      · exact .inr (.inr (.inr (.inr (.inr (.inl ⟨rfl, hb, rfl⟩)))))
    | reset => injection h with h; exact .inr (.inr (.inr (.inr (.inr (.inr ⟨rfl, h.symm⟩)))))

end Sys2Proof.Laws
end

