-- ==== Sys2Proof/Laws/Encoding.lean ====
section
/-!
SUPPORT. The fields of a command word put together from its fields (spec/30_encoding.md R91, R94), and when such a word
selects a row of R100's table.
-/
namespace Sys2Proof.Laws

/-- One bit of a command word, by the field it lies in (R91). -/
theorem getLsbD_commandWord (op proto : BitVec 4) (param : BitVec 24) (i : Nat) :
    (commandWord op proto param).getLsbD i =
      if i < 24 then param.getLsbD i
      else if i - 24 < 4 then proto.getLsbD (i - 24) else op.getLsbD (i - 24 - 4) := by
  have h1 : (commandWord op proto param).getLsbD i =
      if i < 24 then param.getLsbD i else (op ++ proto).getLsbD (i - 24) := BitVec.getLsbD_append
  rw [h1, BitVec.getLsbD_append]

@[simp] theorem fieldOp_commandWord (op proto : BitVec 4) (param : BitVec 24) :
    fieldOp (commandWord op proto param) = op := by
  unfold fieldOp
  ext i hi
  rw [BitVec.getElem_extractLsb', getLsbD_commandWord, if_neg (by omega), if_neg (by omega),
    show 28 + i - 24 - 4 = i by omega, BitVec.getLsbD_eq_getElem hi]

@[simp] theorem fieldProto_commandWord (op proto : BitVec 4) (param : BitVec 24) :
    fieldProto (commandWord op proto param) = proto := by
  unfold fieldProto
  ext i hi
  rw [BitVec.getElem_extractLsb', getLsbD_commandWord, if_neg (by omega), if_pos (by omega),
    show 24 + i - 24 = i by omega, BitVec.getLsbD_eq_getElem hi]

@[simp] theorem fieldParam_commandWord (op proto : BitVec 4) (param : BitVec 24) :
    fieldParam (commandWord op proto param) = param := by
  unfold fieldParam
  ext i hi
  rw [BitVec.getElem_extractLsb', getLsbD_commandWord, if_pos (by omega), Nat.zero_add, BitVec.getLsbD_eq_getElem hi]

/-- A row whose mask tests no bit of `PARAM` is selected by `OP` and `PROTO` alone. -/
theorem selects_commandWord (m q : BitVec 8) (op proto : BitVec 4) (param : BitVec 24) :
    CmdRow.selects ⟨m ++ 0#24, q ++ 0#24⟩ (commandWord op proto param) = ((op ++ proto) &&& m == q) := by
  have h : (commandWord op proto param &&& (m ++ 0#24) : BitVec 32) = ((op ++ proto) &&& m) ++ 0#24 := by
    unfold commandWord
    rw [BitVec.and_append]
    simp
  unfold CmdRow.selects
  simp only [h]
  rw [Bool.eq_iff_iff, beq_iff_eq, beq_iff_eq]
  constructor
  · intro e
    ext j hj
    have h24 : ∀ x : BitVec 8, (x ++ 0#24 : BitVec 32).getLsbD (24 + j) = x[j] := fun x => by
      have : (x ++ 0#24 : BitVec 32).getLsbD (24 + j) =
          if 24 + j < 24 then (0#24).getLsbD (24 + j) else x.getLsbD (24 + j - 24) := BitVec.getLsbD_append
      rw [this, if_neg (by omega), show 24 + j - 24 = j by omega, BitVec.getLsbD_eq_getElem hj]
    have hx := h24 ((op ++ proto) &&& m)
    rw [e, h24 q] at hx
    exact hx.symm
  · rintro rfl; rfl

end Sys2Proof.Laws
end

