-- ==== Sys2Proof/Laws/PerInstr.lean ====
section
/-!
SUPPORT. A statement about every instruction as syntax, one lemma per constructor: the encoding of a well-formed
instruction is selected by its own row of spec/opcode_table.json (spec/30_encoding.md R100, R101).
-/
namespace Sys2Proof.Laws

/-- A word selects the `k`-th row of R100's table. -/
def selectsRow (k : Nat) (w : Word32) : Prop := ∃ row, cmdTable[k]? = some row ∧ row.selects w = true

/-- The tag pattern of an operation that a tag selects (R101). -/
def tagPattern : Instr → Tag → Prop
  | .runGpio, t => t = 0b0000#4
  | .runSpi, t => t = 0b0001#4
  | .runI2c, t => t = 0b0010#4
  | .runUart, t => t = 0b0011#4
  | .runUnkLow _, t => ∃ x : BitVec 2, t = 0b01#2 ++ x
  | .runUnkHigh _, t => ∃ x : BitVec 3, t = 0b1#1 ++ x
  | _, _ => False

/-- The encoding of a well-formed instruction is one its own row selects. -/
def EncodesItsRow.Statement (i : Instr) : Prop :=
  i.wf = true → match encode i with
    | .cmd32 w => ∃ k, i.cmdRow = some k ∧ selectsRow k w
    | .tag4 t => tagPattern i t

/-- A row of the table in terms of the eight bits it may test. -/
theorem selectsRow_of {k : Nat} {m q : BitVec 8} {op proto : BitVec 4} (param : BitVec 24)
    (hrow : cmdTable[k]? = some ⟨m ++ 0#24, q ++ 0#24⟩) (h : (op ++ proto) &&& m = q) :
    selectsRow k (commandWord op proto param) :=
  ⟨_, hrow, by rw [selects_commandWord]; simpa using h⟩

theorem EncodesItsRow.cfgGpio (param : BitVec 24) : EncodesItsRow.Statement (.cfgGpio param) :=
  fun _ => ⟨0, rfl, selectsRow_of (m := 0xFF) (q := 0x10) param rfl (by decide)⟩

theorem EncodesItsRow.cfgSpi (ignored : BitVec 22) (mode : BitVec 2) :
    EncodesItsRow.Statement (.cfgSpi ignored mode) :=
  fun _ => ⟨1, rfl, selectsRow_of (m := 0xFF) (q := 0x11) (ignored ++ mode) rfl (by decide)⟩

theorem EncodesItsRow.cfgI2c (param : BitVec 24) : EncodesItsRow.Statement (.cfgI2c param) :=
  fun _ => ⟨2, rfl, selectsRow_of (m := 0xFF) (q := 0x12) param rfl (by decide)⟩

theorem EncodesItsRow.cfgUart (baud : BitVec 24) : EncodesItsRow.Statement (.cfgUart baud) :=
  fun _ => ⟨3, rfl, selectsRow_of (m := 0xFF) (q := 0x13) baud rfl (by decide)⟩

theorem EncodesItsRow.cfgUnkLow (proto : BitVec 4) (param : BitVec 24) :
    EncodesItsRow.Statement (.cfgUnkLow proto param) := by
  intro h
  refine ⟨4, rfl, selectsRow_of (m := 0xFC) (q := 0x14) param rfl ?_⟩
  revert h; simp only [Instr.wf]; revert proto; decide

theorem EncodesItsRow.cfgUnkHigh (proto : BitVec 4) (param : BitVec 24) :
    EncodesItsRow.Statement (.cfgUnkHigh proto param) := by
  intro h
  refine ⟨5, rfl, selectsRow_of (m := 0xF8) (q := 0x18) param rfl ?_⟩
  revert h; simp only [Instr.wf]; revert proto; decide

theorem EncodesItsRow.start (proto : BitVec 4) (param : BitVec 24) :
    EncodesItsRow.Statement (.start proto param) := by
  intro _
  refine ⟨6, rfl, selectsRow_of (m := 0xF0) (q := 0x20) param rfl ?_⟩
  clear * -
  revert proto; decide

theorem EncodesItsRow.rsvdOp0 (proto : BitVec 4) (param : BitVec 24) :
    EncodesItsRow.Statement (.rsvdOp0 proto param) := by
  intro _
  refine ⟨7, rfl, selectsRow_of (m := 0xF0) (q := 0x00) param rfl ?_⟩
  clear * -
  revert proto; decide

theorem EncodesItsRow.rsvdOp3 (proto : BitVec 4) (param : BitVec 24) :
    EncodesItsRow.Statement (.rsvdOp3 proto param) := by
  intro _
  refine ⟨8, rfl, selectsRow_of (m := 0xF0) (q := 0x30) param rfl ?_⟩
  clear * -
  revert proto; decide

theorem EncodesItsRow.rsvdOp4to7 (op proto : BitVec 4) (param : BitVec 24) :
    EncodesItsRow.Statement (.rsvdOp4to7 op proto param) := by
  intro h
  refine ⟨9, rfl, selectsRow_of (m := 0xC0) (q := 0x40) param rfl ?_⟩
  revert h; simp only [Instr.wf]; revert op proto; decide

theorem EncodesItsRow.rsvdOp8to15 (op proto : BitVec 4) (param : BitVec 24) :
    EncodesItsRow.Statement (.rsvdOp8to15 op proto param) := by
  intro h
  refine ⟨10, rfl, selectsRow_of (m := 0x80) (q := 0x80) param rfl ?_⟩
  revert h; simp only [Instr.wf]; revert op proto; decide

theorem EncodesItsRow.runGpio : EncodesItsRow.Statement .runGpio := fun _ => rfl

theorem EncodesItsRow.runSpi : EncodesItsRow.Statement .runSpi := fun _ => rfl

theorem EncodesItsRow.runI2c : EncodesItsRow.Statement .runI2c := fun _ => rfl

theorem EncodesItsRow.runUart : EncodesItsRow.Statement .runUart := fun _ => rfl

theorem EncodesItsRow.runUnkLow (tag : Tag) : EncodesItsRow.Statement (.runUnkLow tag) := by
  unfold EncodesItsRow.Statement
  simp only [Instr.wf, encode, tagPattern]
  revert tag; decide

theorem EncodesItsRow.runUnkHigh (tag : Tag) : EncodesItsRow.Statement (.runUnkHigh tag) := by
  unfold EncodesItsRow.Statement
  simp only [Instr.wf, encode, tagPattern]
  revert tag; decide

end Sys2Proof.Laws
end

