-- ==== Sys2Proof/Tests/Slice0.lean ====
section
/-!
SUPPORT. The model's own tests. Expected values are the spec's: the vectors of spec/95_test_vectors.md (named in each
test's comment) or values written out from the rule named. In an expected text `<` and `>` stand for the braces.
-/
namespace Sys2Proof.Tests

open Sys2Proof Sys2Proof.Machine Sys2Proof.Safety

/-! Ill-formed terms are refused (R5, R100, R101) -/

theorem test_wf_cfgUnkLow_below : (Instr.cfgUnkLow 3#4 0#24).wf = false := by decide
theorem test_wf_cfgUnkLow_above : (Instr.cfgUnkLow 8#4 0#24).wf = false := by decide
theorem test_wf_cfgUnkHigh_below : (Instr.cfgUnkHigh 7#4 0#24).wf = false := by decide
theorem test_wf_rsvdOp4to7_below : (Instr.rsvdOp4to7 3#4 0#4 0#24).wf = false := by decide
theorem test_wf_rsvdOp4to7_above : (Instr.rsvdOp4to7 8#4 0#4 0#24).wf = false := by decide
theorem test_wf_rsvdOp8to15_below : (Instr.rsvdOp8to15 7#4 0#4 0#24).wf = false := by decide
theorem test_wf_runUnkLow_below : (Instr.runUnkLow 3#4).wf = false := by decide
theorem test_wf_runUnkLow_above : (Instr.runUnkLow 8#4).wf = false := by decide
theorem test_wf_runUnkHigh_below : (Instr.runUnkHigh 7#4).wf = false := by decide

theorem test_params_recommended : Params.recommended.wf = true := by decide
theorem test_params_test : Params.test.wf = true := by decide
theorem test_params_odd : ({ Params.test with bufSize := 127 } : Params).wf = false := by decide
theorem test_params_empty : ({ Params.test with bufSize := 0 } : Params).wf = false := by decide
theorem test_params_narrow : ({ Params.test with sampleWidth := 7 } : Params).wf = false := by decide
theorem test_params_no_reserve : ({ Params.test with fmtReserve := 0 } : Params).wf = false := by decide
theorem test_params_report_small : ({ Params.test with reportCap := 1 } : Params).wf = false := by decide
theorem test_params_scratch_small : ({ Params.test with scratchCap := 1 } : Params).wf = false := by decide
theorem test_params_no_rate : ({ Params.test with sampleRate := 0 } : Params).wf = false := by decide
theorem test_params_no_baud : ({ Params.test with uartBaudReset := 0#24 } : Params).wf = false := by decide
theorem test_boot_odd : State.boot { Params.test with bufSize := 127 } = none := by decide

/-! Decoding words written out from R91, R94, R95, R100 (spec/95 section 2.7) and tags from R101 -/

theorem test_decode_cfgGpio : decodeTableWord 32 0x10ABCDEF = some (.cfgGpio 0xABCDEF#24) := by decide
theorem test_decode_cfgSpi : decodeTableWord 32 0x11FFFFFE = some (.cfgSpi 0x3FFFFF#22 2#2) := by decide
theorem test_decode_cfgI2c : decodeTableWord 32 0x12FFFFFF = some (.cfgI2c 0xFFFFFF#24) := by decide
theorem test_decode_cfgUart : decodeTableWord 32 0x1301C200 = some (.cfgUart 115200#24) := by decide
theorem test_decode_cfgUnkLow : decodeTableWord 32 0x14002580 = some (.cfgUnkLow 4#4 0x002580#24) := by decide
theorem test_decode_cfgUnkLow_last : decodeTableWord 32 0x17000000 = some (.cfgUnkLow 7#4 0#24) := by decide
theorem test_decode_cfgUnkHigh : decodeTableWord 32 0x18000000 = some (.cfgUnkHigh 8#4 0#24) := by decide
theorem test_decode_cfgUnkHigh_last : decodeTableWord 32 0x1F001C20 = some (.cfgUnkHigh 15#4 7200#24) := by decide
theorem test_decode_start : decodeTableWord 32 0x20000000 = some (.start 0#4 0#24) := by decide
theorem test_decode_start_ignored : decodeTableWord 32 0x2FFFFFFF = some (.start 15#4 0xFFFFFF#24) := by decide
theorem test_decode_rsvdOp0 : decodeTableWord 32 0x0FFFFFFF = some (.rsvdOp0 15#4 0xFFFFFF#24) := by decide
theorem test_decode_rsvdOp3 : decodeTableWord 32 0x30000000 = some (.rsvdOp3 0#4 0#24) := by decide
theorem test_decode_rsvdOp4to7 : decodeTableWord 32 0x40000000 = some (.rsvdOp4to7 4#4 0#4 0#24) := by decide
theorem test_decode_rsvdOp4to7_last :
    decodeTableWord 32 0x7FFFFFFF = some (.rsvdOp4to7 7#4 15#4 0xFFFFFF#24) := by decide
theorem test_decode_rsvdOp8to15 : decodeTableWord 32 0x80000000 = some (.rsvdOp8to15 8#4 0#4 0#24) := by decide
theorem test_decode_rsvdOp8to15_last :
    decodeTableWord 32 0xFFFFFFFF = some (.rsvdOp8to15 15#4 15#4 0xFFFFFF#24) := by decide
theorem test_decode_runGpio : decodeTableWord 8 0b0000 = some .runGpio := by decide
theorem test_decode_runSpi : decodeTableWord 8 0b0001 = some .runSpi := by decide
theorem test_decode_runI2c : decodeTableWord 8 0b0010 = some .runI2c := by decide
theorem test_decode_runUart : decodeTableWord 8 0b0011 = some .runUart := by decide
theorem test_decode_runUnkLow : decodeTableWord 8 0b0100 = some (.runUnkLow 4#4) := by decide
theorem test_decode_runUnkHigh : decodeTableWord 8 0b1111 = some (.runUnkHigh 15#4) := by decide
theorem test_decode_no_format : decodeTableWord 16 0x1000 = none := by decide
theorem test_decode_too_wide : decodeRaw 8 16 = .error (.tooWide 16) := rfl

/-- R110: the word of each command line is the operation of its row. -/
theorem test_hostLines : ([.configureGpio, .configureSpi 3#2, .configureI2c, .configureUart 115200#24, .configureOther,
    .startCapture].map fun l : HostLine => decode (.cmd32 l.word)) =
      [.cfgGpio 0#24, .cfgSpi 0#22 3#2, .cfgI2c 0#24, .cfgUart 115200#24, .cfgUnkHigh 15#4 0#24, .start 0#4 0#24] := by
  decide

/-! Helpers -/

/-- An expected text: `<` and `>` stand for the braces, the newline byte is added. -/
def spell (t : String) : Text :=
  (t.toList.map fun c => if c = '<' then 0x7B#8 else if c = '>' then 0x7D#8 else BitVec.ofNat 8 c.toNat) ++ [0x0A#8]

/-- The Samples as a memory, first one at element 0. -/
def samplesFrom (a : Nat) : List Sample → Memory Sample
  | [] => []
  | v :: vs => if v = 0 then samplesFrom (a + 1) vs else (a, v) :: samplesFrom (a + 1) vs

/-- A run in flight on half 0 holding the Samples, in an instance whose half is as long. -/
def inFlight (p : Params) (proto : Tag) (baud : BitVec 24) (samples : List Sample) : State :=
  { State.resetOf { p with bufSize := 2 * samples.length } with
    astate := .capturing, trigEn := true, noteEn := true, served := true, wrPtr := samples.length
    decBusy := true, snap := ⟨proto, 0#2, baud⟩, sb := samplesFrom 0 samples }

/-- A field of the next state, if there is one. -/
def onNext {α : Type} (o : Host.Outcome State Fault Refusal) (f : State → α) : Option α :=
  match o with
  | .next t => some (f t)
  | .fault _ => none
  | .refused _ => none

/-- The Report after an outcome that is a next state with a Report ready. -/
def reportAfter (o : Host.Outcome State Fault Refusal) : Option Text := (onNext o fun t => (statusOf t).report).join

/-- The registers of the tuples of spec/95 section 2.6. -/
def registers (s : State) : List Bool × Nat × Half :=
  ([decide (s.astate = .capturing), s.trigEn, s.noteEn, s.served, s.sigPending, s.decBusy, s.rptValid], s.wrPtr,
    s.sigHalf)

/-- The test instance after reset. -/
def reset0 : State := State.resetOf Params.test

/-- The start state of spec/95 section 2.7. -/
def cfgStart : State := { reset0 with cfg := ⟨1#4, 0#2, 9600#24⟩ }

/-! Commands (spec/95 section 2.7) -/

theorem test_cfgGpio : onNext (exec (.cfgGpio 0xABCDEF#24) cfgStart) State.cfg = some ⟨0#4, 0#2, 9600#24⟩ := by decide
theorem test_cfgSpi : onNext (exec (.cfgSpi 0#22 3#2) cfgStart) State.cfg = some ⟨1#4, 3#2, 9600#24⟩ := by decide
theorem test_cfgI2c : onNext (exec (.cfgI2c 0#24) cfgStart) State.cfg = some ⟨2#4, 0#2, 9600#24⟩ := by decide
theorem test_cfgUart : onNext (exec (.cfgUart 115200#24) cfgStart) State.cfg = some ⟨3#4, 0#2, 115200#24⟩ := by decide
theorem test_cfgUart_zero : onNext (exec (.cfgUart 0#24) cfgStart) State.cfg = some ⟨3#4, 0#2, 9600#24⟩ := by decide
theorem test_cfgUnkLow : exec (.cfgUnkLow 4#4 0x002580#24) cfgStart = .next cfgStart := rfl
theorem test_cfgUnkHigh : exec (.cfgUnkHigh 15#4 0#24) cfgStart = .next cfgStart := rfl
/-- V-ARB-3. -/
theorem test_start : onNext (exec (.start 0#4 0#24) reset0) registers =
    some ([true, true, true, false, false, false, false], 0, .first) := by decide
/-- V-CMD-25. -/
theorem test_start_busy : exec (.start 0#4 0#24) { reset0 with astate := .capturing, wrPtr := 10 } =
    .next { reset0 with astate := .capturing, wrPtr := 10 } := rfl
theorem test_rsvdOp0 : exec (.rsvdOp0 0#4 0#24) cfgStart = .next cfgStart := rfl
theorem test_rsvdOp3 : exec (.rsvdOp3 0#4 0#24) cfgStart = .next cfgStart := rfl
theorem test_rsvdOp4to7 : exec (.rsvdOp4to7 4#4 0#4 0#24) cfgStart = .next cfgStart := rfl
theorem test_rsvdOp8to15 : exec (.rsvdOp8to15 15#4 15#4 0xFFFFFF#24) cfgStart = .next cfgStart := rfl

/-! Turns (spec/95 section 2.6) -/

/-- The state of V-ARB-4: 63 Samples taken after START. -/
def almostHalf : State := { reset0 with astate := .capturing, trigEn := true, noteEn := true, wrPtr := 63 }

/-- V-ARB-2. -/
theorem test_tick_off : takeTurn (.tick 0x55) reset0 = .next reset0 := rfl
/-- V-ARB-5. -/
theorem test_tick_half : onNext (takeTurn (.tick 0x55) almostHalf) registers =
    some ([true, true, true, true, true, false, false], 64, .first) := by decide
theorem test_tick_stores : onNext (takeTurn (.tick 0x55) almostHalf) State.sb = some [(63, 0x55)] := by decide
/-- V-ARB-7: the wrap, NOTIFY(1) dropped, the trigger stopped. -/
theorem test_tick_wrap :
    onNext (takeTurn (.tick 0) { almostHalf with wrPtr := 127, served := true, sigPending := true }) registers =
      some ([true, false, true, true, true, false, false], 0, .first) := by decide
theorem test_tick_outside : takeTurn (.tick 0) { almostHalf with wrPtr := 128 } = .fault (.noSuchElement .sb 128) := rfl
/-- V-ARB-9. -/
theorem test_wake :
    onNext (takeTurn .wake { almostHalf with wrPtr := 64, served := true, sigPending := true }) registers =
      some ([true, true, true, true, false, true, false], 64, .first) := by decide
/-- V-ARB-18, the held state of program P3. -/
theorem test_wake_held : takeTurn .wake { almostHalf with served := true, sigPending := true, rptValid := true } =
    .next { almostHalf with served := true, sigPending := true, rptValid := true } := rfl
/-- R128's example. -/
theorem test_take : onNext (takeTurn .take { reset0 with rptValid := true, rptLen := 47 })
    (fun t => (t.rptValid, t.rptLen)) = some (false, 47) := by decide
/-- Program P5: reset in the middle of a capture. -/
theorem test_reset : onNext (takeTurn .reset { almostHalf with cfg := ⟨2#4, 1#2, 5#24⟩ })
    (fun t => (registers t, t.cfg)) = some (registers reset0, ⟨0#4, 0#2, 9600#24⟩) := by decide
/-- With nothing scheduled DISPATCH wakes. -/
theorem test_idle_agenda : onNext (step { almostHalf with served := true, sigPending := true }) State.decBusy =
    some true := by decide
theorem test_run_held : takeTurn .run reset0 = .next reset0 := rfl

/-! Decode runs (spec/95 sections 2.1 to 2.5) -/

/-- V-GPIO-3. -/
theorem test_runGpio : reportAfter (exec .runGpio (inFlight Params.test 0#4 9600#24
      [0, 0, 0, 1, 1, 0, 0, 0, 0, 0, 4, 4, 4, 4, 4, 4])) =
    some (spell "<\"protocol\":\"GPIO\",\"decoded\":[],\"waveform\":<\"ch0\":[[0,0],[3,1],[5,0]],\"ch2\":[[10,1]]>>") := by
  decide +kernel

/-- V-GPIO-9, scratch and Report clipped. -/
theorem test_runGpio_clipped : reportAfter (exec .runGpio
      (inFlight { Params.test with reportCap := 64, scratchCap := 24 } 0#4 9600#24
        [0, 0x22, 0, 0x22, 0, 0x22, 0, 0x22, 0, 0x22, 0, 0x22, 0, 0x22, 0, 0x22])) =
    some (spell "<\"protocol\":\"GPIO\",\"decoded\":[],\"waveform\":<\"ch1\":[[1,1],[2,0],") := by
  decide +kernel

/-- V-SPI-1, without the idle tail. -/
theorem test_runSpi : reportAfter (exec .runSpi (inFlight Params.test 1#4 9600#24
      [8, 8, 0, 2, 3, 0, 1, 2, 3, 2, 3, 4, 5, 4, 5, 6, 7, 4, 5, 0, 8, 8])) =
    some (spell "<\"protocol\":\"SPI\",\"decoded\":[<\"ts\":4,\"mosi\":178,\"miso\":15>],\"waveform\":<>>") := by
  decide +kernel

/-- V-SPI-5: chip-select falls as the clock rises. -/
theorem test_runSpi_coincident : reportAfter (exec .runSpi (inFlight Params.test 1#4 9600#24
      [10, 3, 2, 2, 3, 2, 3, 2, 3, 2, 3, 2, 3, 2, 3, 2, 3, 0, 8])) =
    some (spell "<\"protocol\":\"SPI\",\"decoded\":[<\"ts\":1,\"mosi\":255,\"miso\":0>],\"waveform\":<>>") := by
  decide +kernel

/-- V-I2C-1, without the tail. -/
theorem test_runI2c : reportAfter (exec .runI2c (inFlight Params.test 2#4 9600#24
      [3, 3, 1, 0, 2, 3, 2, 3, 2, 3, 2, 3, 0, 1, 0, 1, 0, 1, 0, 1, 0, 1, 0])) =
    some (spell ("<\"protocol\":\"I2C\",\"decoded\":[<\"ts\":2,\"type\":\"START\">,<\"ts\":19,\"type\":\"DATA\"," ++
      "\"value\":240>,<\"ts\":21,\"type\":\"ACK\",\"ack\":1>],\"waveform\":<>>")) := by
  decide +kernel

/-- V-I2C-5, without the tail: STOP in Ack state. -/
theorem test_runI2c_stop : reportAfter (exec .runI2c (inFlight Params.test 2#4 9600#24
      [3, 3, 1, 0, 0, 1, 2, 3, 0, 1, 2, 3, 0, 1, 2, 3, 0, 1, 0, 1, 3, 3])) =
    some (spell ("<\"protocol\":\"I2C\",\"decoded\":[<\"ts\":2,\"type\":\"START\">,<\"ts\":19,\"type\":\"DATA\"," ++
      "\"value\":84>,<\"ts\":20,\"type\":\"STOP\">],\"waveform\":<>>")) := by
  decide +kernel

/-- V-UART-7, without the tail: one Sample per bit, the second frame with a low stop bit. -/
theorem test_runUart : reportAfter (exec .runUart (inFlight Params.test 3#4 28800#24
      [1, 1, 0, 1, 1, 0, 0, 0, 0, 1, 1, 1, 1, 0, 1, 1, 1, 1, 0, 0, 0, 0, 0, 1])) =
    some (spell ("<\"protocol\":\"UART\",\"decoded\":[<\"ts\":2,\"value\":195,\"error\":\"None\">," ++
      "<\"ts\":13,\"value\":15,\"error\":\"Framing\">],\"waveform\":<>>")) := by
  decide +kernel

/-- V-UART-1, without the idle tail: three Samples per bit. -/
theorem test_runUart_three : reportAfter (exec .runUart (inFlight Params.test 3#4 9600#24
      [1, 1, 0, 0, 0, 1, 1, 1, 0, 0, 0, 0, 0, 0, 0, 0, 0, 0, 0, 0, 0, 0, 0, 1, 1, 1, 0, 0, 0, 1, 1, 1])) =
    some (spell "<\"protocol\":\"UART\",\"decoded\":[<\"ts\":2,\"value\":65,\"error\":\"None\">],\"waveform\":<>>") := by
  decide +kernel

/-- V-UNK-1. -/
theorem test_runUnkLow : reportAfter (exec (.runUnkLow 7#4) (inFlight Params.test 7#4 9600#24 [0, 0])) =
    some (spell "<\"protocol\":\"UNKNOWN\",\"decoded\":[],\"waveform\":<>>") := by decide +kernel

/-- V-UNK-2. -/
theorem test_runUnkHigh :
    reportAfter (exec (.runUnkHigh 15#4) (inFlight { Params.test with reportCap := 40 } 15#4 9600#24 [0, 0])) =
      some (spell "<\"protocol\":\"UNKNOWN\",\"decoded\":[],\"wav") := by decide +kernel

/-- V-ARB-11: disarmed, Idle, Report ready; `served` and `wr_ptr` keep their values. -/
theorem test_run_completes : onNext (takeTurn .run (inFlight Params.test 0#4 9600#24 [0, 0]))
    (fun t => (registers t, t.rptLen)) =
      some (([false, false, false, true, false, false, true], 2, .first), 47) := by decide +kernel

/-- V-FMT-4. -/
theorem test_dec : dec 0 = [0x30#8] ∧ dec 10 = [0x31#8, 0x30#8] ∧ dec 511 = [0x35#8, 0x31#8, 0x31#8] := by decide

/-- V-FMT-2: the first two appends. -/
theorem test_append_cut :
    let p := { Params.test with reportCap := 16 }
    let r := append p (ascii "abcdefgh") (append p (ascii "0123456789") (initRun (Run.ofState reset0)))
    (readBytes r.rb 0 20).take 16 = ascii "0123456789abcde" ++ [0#8] ∧ r.work.fmt.cur = 15 := by decide +kernel

/-! The operation placed by the host runs at the next step, from reset -/

theorem test_placed_command : onNext (step (State.reset.withFetchWord 32 0x11000003)) State.cfg =
    some ⟨1#4, 3#2, 9600#24⟩ := by decide
theorem test_placed_run : onNext (step (State.reset.withFetchWord 8 5)) State.rptLen = some 50 := by decide +kernel

/-! Witnesses: for every statement with hypotheses, values that meet them all, each clause at the ends of its range -/

/-- The smallest instance with two Samples in a half. -/
def small : Params := { Params.test with bufSize := 4 }

/-- Idle, nothing ready. -/
def idleState : State := State.resetOf small
/-- Filling half 0, one Sample taken. -/
def fillingState : State :=
  { idleState with astate := .capturing, trigEn := true, noteEn := true, wrPtr := 1, sb := [(0, 5)] }
/-- Half 0 posted, the first Sample of half 1 awaited. -/
def pendingState : State :=
  { fillingState with wrPtr := 2, served := true, sigPending := true, sb := [(0, 5), (1, 255)] }
/-- Half 0 posted, the pointer wrapped, the trigger stopped. -/
def wrappedState : State := { pendingState with wrPtr := 0, trigEn := false }
/-- A run in flight. -/
def busyState : State := { pendingState with sigPending := false, decBusy := true }
/-- A Report of the newline alone, ready. -/
def readyState : State := { idleState with rptValid := true, rptLen := 1, rb := [(0, 0x0A#8)] }
/-- The state with one turn scheduled. -/
def facing (u : Turn) (s : State) : State := { s with agenda := [u] }

theorem witness_idle_control : ControlInv idleState := by constructor <;> decide
theorem witness_filling_control : ControlInv fillingState := by constructor <;> decide
theorem witness_pending_control : ControlInv pendingState := by constructor <;> decide
theorem witness_wrapped_control : ControlInv wrappedState := by constructor <;> decide
theorem witness_busy_control : ControlInv busyState := by constructor <;> decide
theorem witness_ready_control : ControlInv readyState := by constructor <;> decide
theorem witness_filling_memory : MemoryInv fillingState := by constructor <;> decide
theorem witness_pending_memory : MemoryInv pendingState := by constructor <;> decide
theorem witness_busy_memory : MemoryInv busyState := by constructor <;> decide
theorem witness_ready_memory : MemoryInv readyState := by constructor <;> decide

theorem witness_DecodeOfEncode : [Instr.cfgUnkLow 4#4 0#24, .cfgUnkLow 7#4 0xFFFFFF#24, .cfgUnkHigh 8#4 0#24,
    .cfgUnkHigh 15#4 0#24, .rsvdOp4to7 4#4 0#4 0#24, .rsvdOp4to7 7#4 15#4 0#24, .rsvdOp8to15 8#4 0#4 0#24,
    .rsvdOp8to15 15#4 15#4 0#24, .runUnkLow 4#4, .runUnkLow 7#4, .runUnkHigh 8#4, .runUnkHigh 15#4, .cfgGpio 1#24,
    .cfgSpi 1#22 3#2, .cfgI2c 1#24, .cfgUart 1#24, .start 1#4 1#24, .rsvdOp0 1#4 1#24, .rsvdOp3 1#4 1#24, .runGpio,
    .runSpi, .runI2c, .runUart].all Instr.wf = true := by decide

theorem witness_CommandRowsPartition : (cmdTable[10]?.map fun row => row.selects 0xFFFFFFFF#32) = some true := by decide

theorem witness_StepRunsDecoded :
    (facing (.cmd 0x20000000#32) idleState).agenda = .cmd 0x20000000#32 :: [] ∧
      ((facing .run busyState).agenda = .run :: [] ∧ (facing .run busyState).decBusy = true) ∧
      (busyState.agenda = [] ∧ busyState.decBusy = true) ∧
      (facing (.tick 255) fillingState).agenda = .tick 255 :: [] := by decide

theorem witness_PlacedOperationRunsNext : 0xFFFFFFFF < 2 ^ 32 ∧ 0 < 2 ^ 32 ∧ 15 < 2 ^ 4 ∧ 0 < 2 ^ 4 := by decide

theorem witness_WakeSnapshotsConfiguration :
    (let s := facing .wake pendingState
     s.agenda = .wake :: [] ∧ s.sigPending = true ∧ s.rptValid = false ∧ s.decBusy = false) ∧
    (let s := facing .wake readyState
     s.agenda = .wake :: [] ∧ (s.sigPending = false ∨ s.rptValid = true ∨ s.decBusy = true)) ∧
    (pendingState.agenda = [] ∧ pendingState.sigPending = true ∧ pendingState.rptValid = false ∧
      pendingState.decBusy = false) ∧
    (readyState.agenda = [] ∧ readyState.decBusy = false ∧
      (readyState.sigPending = false ∨ readyState.rptValid = true)) := by decide

theorem witness_CfgUartStoresBaud : 1#24 ≠ 0#24 ∧ 0xFFFFFF#24 ≠ 0#24 := by decide

theorem witness_StartArmsWhenIdle : idleState.astate = .idle ∧ fillingState.astate = .capturing := by decide

theorem witness_TakeEmptiesSlot : (facing .take readyState).agenda = .take :: [] := by decide

theorem witness_NotifyPostsOnce :
    (fillingState.noteEn = true ∧ fillingState.served = false) ∧
      (pendingState.noteEn = false ∨ pendingState.served = true) ∧
      (idleState.noteEn = false ∨ idleState.served = true) := by decide

theorem witness_TickStoresAndAdvances :
    idleState.trigEn = false ∧
      (0 < 2 ^ small.sampleWidth ∧ 255 < 2 ^ small.sampleWidth) ∧
      (MemoryInv { fillingState with wrPtr := 0 } ∧ 0 < small.bufSize ∧ 0 + 1 ≠ small.half ∧ 0 + 1 ≠ small.bufSize) ∧
      (MemoryInv fillingState ∧ fillingState.trigEn = true ∧ fillingState.wrPtr + 1 = small.half) ∧
      (MemoryInv { fillingState with wrPtr := 3 } ∧ 3 < small.bufSize ∧ 3 + 1 = small.bufSize) :=
  ⟨rfl, by decide, ⟨by constructor <;> decide, by decide, by decide, by decide⟩, ⟨witness_filling_memory, rfl, rfl⟩,
    ⟨by constructor <;> decide, by decide, rfl⟩⟩

theorem witness_ResetRestoresControl : (facing .reset busyState).agenda = .reset :: [] := by decide

theorem witness_IllegalInstanceRefused :
    ({ small with bufSize := 3 } : Params).wf = false ∧ small.wf = true ∧ isRun .runGpio = true ∧
      isRun (.runUnkHigh 15#4) = true ∧
      ({ busyState with params := { small with bufSize := 3 } } : State).params.wf = false := by decide

theorem witness_AppendWritesWhatFits :
    Memory.wf blankByte (Run.ofState readyState).rb ∧ Memory.wf blankByte [(3, 1#8), (255, 2#8)] := by decide

theorem witness_AppendsKeepPrefix :
    Memory.wf blankByte (Run.ofState readyState).rb ∧ Memory.wf blankByte (Run.ofState readyState).scr ∧
      (Run.ofState readyState).work.gpio.scrCur = 0 := by decide

theorem witness_FinishWritesNewline : Memory.wf blankByte (Run.ofState readyState).rb := by decide

theorem witness_ReportEndsInNewline :
    isRun .runUart = true ∧ MemoryInv busyState ∧ busyState.decBusy = true := ⟨rfl, witness_busy_memory, rfl⟩

theorem witness_RunHandsOver :
    isRun .runGpio = true ∧ isRun .runSpi = true ∧ MemoryInv busyState ∧ busyState.decBusy = true :=
  ⟨rfl, rfl, witness_busy_memory, rfl⟩

theorem witness_RunHeldWhenNotInFlight :
    isRun .runI2c = true ∧ pendingState.params.wf = true ∧ pendingState.decBusy = false := by decide

theorem witness_GpioReportIsClosedForm : MemoryInv busyState ∧ busyState.decBusy = true := ⟨witness_busy_memory, rfl⟩
theorem witness_SpiReportIsClosedForm : MemoryInv busyState ∧ busyState.decBusy = true := ⟨witness_busy_memory, rfl⟩
theorem witness_I2cReportIsClosedForm : MemoryInv busyState ∧ busyState.decBusy = true := ⟨witness_busy_memory, rfl⟩
theorem witness_UartReportIsClosedForm :
    MemoryInv busyState ∧ busyState.snap.uartBaud ≠ 0#24 ∧ busyState.decBusy = true :=
  ⟨witness_busy_memory, by decide, rfl⟩
theorem witness_UnknownTagGivesDiagnostic : MemoryInv busyState ∧ busyState.decBusy = true :=
  ⟨witness_busy_memory, rfl⟩

/-- A run in flight that differs from `busyState` in everything the Report does not depend on. -/
def busyOther : State :=
  { busyState with
    sb := [(0, 5), (1, 255), (3, 7)], rb := [(0, 1#8)], snap := { busyState.snap with spiMode := 3#2 }, runCount := 9 }

theorem witness_ReportDependsOnInputsOnly :
    MemoryInv busyState ∧ MemoryInv busyOther ∧ busyState.decBusy = true ∧ busyOther.decBusy = true ∧
      busyState.params = busyOther.params ∧ busyState.snap.proto = busyOther.snap.proto ∧
      busyState.snap.uartBaud = busyOther.snap.uartBaud ∧
      (∀ i k, i < busyState.params.half → k < 8 → level busyState i k = level busyOther i k) := by
  refine ⟨witness_busy_memory, by constructor <;> decide, rfl, rfl, rfl, rfl, rfl, fun i k hi _ => ?_⟩
  have h : i = 0 ∨ i = 1 := by have : busyState.params.half = 2 := rfl; omega
  rcases h with rfl | rfl <;> rfl

/-- `busyState` with a baud rate in `snap`. -/
def busyAt (baud : BitVec 24) : State := { busyState with snap := ⟨3#4, 0#2, baud⟩ }

theorem witness_ZeroBitPeriodActsAsOne :
    MemoryInv (busyAt 28801#24) ∧ MemoryInv (busyAt 28800#24) ∧ (busyAt 28801#24).decBusy = true ∧
      (busyAt 28800#24).decBusy = true ∧ 28801#24 ≠ 0#24 ∧ 28800#24 ≠ 0#24 ∧ (busyAt 28801#24).params = (busyAt 28800#24).params ∧
      samplesPerBit (busyAt 28801#24) = 0 ∧ samplesPerBit (busyAt 28800#24) = 1 ∧
      (∀ i, i < small.half → level (busyAt 28801#24) i small.chUartRx = level (busyAt 28800#24) i small.chUartRx) :=
  ⟨by constructor <;> decide, by constructor <;> decide, rfl, rfl, by decide, by decide, rfl, rfl, rfl, fun _ _ => rfl⟩

theorem witness_GpioWaveformProperties :
    (0 < busyState.params.half ∧ 1 < busyState.params.half) ∧
      (gpioTransitions busyState 1).head? = some (1, true) ∧
      (level busyState 0 0 = level busyState 0 0 ∧ level busyState 1 0 = level busyState 0 0) ∧
      (let s := inFlight Params.test 0#4 1#24 [0, 1, 0]
       (gpioTransitions s 0)[0]? = some (1, true) ∧ (gpioTransitions s 0)[0 + 1]? = some (2, false)) := by decide

theorem witness_ConstantHalfGivesEmptyWaveform :
    let s := { busyState with sb := [(0, 5), (1, 5)] }
    MemoryInv s ∧ s.decBusy = true ∧ (∀ i c, i < s.params.half → c < 8 → level s i c = level s 0 c) := by
  refine ⟨by constructor <;> decide, rfl, fun i c hi _ => ?_⟩
  have h : i = 0 ∨ i = 1 := by have : small.half = 2 := rfl; have : i < small.half := hi; omega
  rcases h with rfl | rfl <;> rfl

theorem witness_TimestampsIncrease :
    (spiEvents (inFlight Params.test 1#4 1#24
      [10, 3, 2, 3, 2, 3, 2, 3, 2, 3, 2, 3, 2, 3, 2, 3, 2, 3, 2, 3, 2, 3, 2, 3, 2, 3, 2, 3, 2, 3, 2, 3])).map SpiEvent.ts =
      [1, 17] := by decide +kernel

theorem witness_SpiEventBounds :
    ⟨1, 255, 0⟩ ∈ spiEvents (inFlight Params.test 1#4 1#24 [10, 3, 2, 3, 2, 3, 2, 3, 2, 3, 2, 3, 2, 3, 2, 3]) := by
  decide +kernel

theorem witness_UartEventBounds :
    ⟨1, 255, true⟩ ∈ uartEvents (inFlight Params.test 3#4 28800#24 [1, 0, 1, 1, 1, 1, 1, 1, 1, 1, 0]) := by
  decide +kernel

/-- The history of `fillingState`, `pendingState` and of half 1 about to be complete. -/
theorem witness_history_filling : SampleHistory fillingState [0] := by
  constructor <;> simp [fillingState, idleState, State.resetOf, small, Params.test, Params.recommended]
theorem witness_history_pending : SampleHistory pendingState [1, 0] := by
  constructor <;> simp [pendingState, fillingState, idleState, State.resetOf, small, Params.test, Params.recommended,
    Params.half] <;> omega

theorem witness_StepKeepsSampleHistory :
    (ControlInv (facing (.tick 7) fillingState) ∧ SampleHistory (facing (.tick 7) fillingState) [0] ∧
      (∃ t, step (facing (.tick 7) fillingState) = .next t) ∧ writtenAfter (facing (.tick 7) fillingState) [0] = [1, 0]) ∧
    (ControlInv (facing .wake pendingState) ∧ SampleHistory (facing .wake pendingState) [1, 0] ∧
      ∃ t, step (facing .wake pendingState) = .next t) :=
  ⟨⟨by constructor <;> decide, ⟨witness_history_filling.1, witness_history_filling.2, witness_history_filling.3,
      witness_history_filling.4⟩, ⟨_, rfl⟩, by decide⟩,
    ⟨by constructor <;> decide, ⟨witness_history_pending.1, witness_history_pending.2, witness_history_pending.3,
      witness_history_pending.4⟩, ⟨_, rfl⟩⟩⟩

theorem witness_SampleHistoryBegins :
    let s := facing (.cmd 0x20000000#32) idleState
    ControlInv s ∧ s.agenda = .cmd 0x20000000#32 :: [] ∧ decode (.cmd32 0x20000000#32) = .start 0#4 0#24 ∧
      s.astate = .idle := ⟨by constructor <;> decide, rfl, rfl, rfl⟩

theorem witness_ResetMeetsInvariants : Params.recommended.wf = true ∧ small.wf = true := by decide

theorem witness_StepKeepsControlInv :
    ControlInv (facing (.tick 7) fillingState) ∧ ∃ t, step (facing (.tick 7) fillingState) = .next t :=
  ⟨by constructor <;> decide, _, rfl⟩

theorem witness_StepKeepsReportInv :
    MemoryInv readyState ∧ ReportInv readyState ∧ readyState.rptValid = true ∧ ∃ t, step readyState = .next t :=
  ⟨witness_ready_memory, by decide, rfl, _, rfl⟩

theorem witness_StepKeepsCfgInv :
    CfgInv (facing (.cmd 0x13000001#32) idleState) ∧
      ∃ t, step (facing (.cmd 0x13000001#32) idleState) = .next t := ⟨by constructor <;> decide, _, rfl⟩

theorem witness_StepKeepsMemoryInv :
    MemoryInv (facing (.tick 7) fillingState) ∧ ∃ t, step (facing (.tick 7) fillingState) = .next t :=
  ⟨by constructor <;> decide, _, rfl⟩

theorem witness_NoStepStops : ControlInv fillingState ∧ ControlInv busyState :=
  ⟨witness_filling_control, witness_busy_control⟩

theorem witness_HalfUnderDecodeStable :
    (let s := facing (.tick 7) pendingState
     ControlInv s ∧ MemoryInv s ∧ s.sigPending = true ∧ ∃ t, step s = .next t) ∧
    (let s := facing (.tick 7) busyState
     ControlInv s ∧ MemoryInv s ∧ s.decBusy = true ∧ ∃ t, step s = .next t) ∧
    0 < small.half ∧ 1 < small.half :=
  ⟨⟨by constructor <;> decide, by constructor <;> decide, rfl, _, rfl⟩,
    ⟨by constructor <;> decide, by constructor <;> decide, rfl, _, rfl⟩, by decide, by decide⟩

theorem witness_ReportStableWhileReady :
    ControlInv (facing (.cmd 0x20000000#32) readyState) ∧ readyState.rptValid = true ∧
      ∃ t, step (facing (.cmd 0x20000000#32) readyState) = .next t := ⟨by constructor <;> decide, rfl, _, rfl⟩

theorem witness_SnapshotIsolation :
    ControlInv busyState ∧ MemoryInv busyState ∧ busyState.decBusy = true ∧
      Turn.tick 7 ≠ .run ∧ Turn.tick 7 ≠ .reset ∧ ∃ t, takeTurn (.tick 7) busyState = .next t :=
  ⟨witness_busy_control, witness_busy_memory, rfl, by decide, by decide, _, rfl⟩

theorem witness_ModeChanges :
    (let s := facing (.cmd 0x20000000#32) idleState
     s.astate = .idle ∧ onNext (step s) State.astate = some .capturing) ∧
    (busyState.astate = .capturing ∧ onNext (step busyState) State.astate = some .idle) ∧
    (fillingState.astate = .capturing ∧ onNext (step (facing .reset fillingState)) State.astate = some .idle) := by
  decide +kernel

theorem witness_TriggerChanges :
    (let s := facing (.cmd 0x20000000#32) idleState
     s.trigEn = false ∧ s.noteEn = false ∧ onNext (step s) (fun t => (t.trigEn, t.noteEn)) = some (true, true)) ∧
    (let s := facing (.tick 7) { busyState with wrPtr := 3 }
     s.trigEn = true ∧ onNext (step s) State.trigEn = some false) ∧
    (busyState.noteEn = true ∧ onNext (step busyState) State.noteEn = some false) := by decide +kernel

theorem witness_ReportSlotChanges :
    (busyState.rptValid = false ∧ onNext (step busyState) State.rptValid = some true) ∧
      (readyState.rptValid = true ∧ onNext (step (facing .take readyState)) State.rptValid = some false) := by
  decide +kernel

theorem witness_ConfigurationChanges :
    (let s := facing (.cmd 0x13000001#32) idleState
     s.agenda.head? ≠ some .reset ∧
       onNext (step s) (fun t => (t.cfg.uartBaud, t.cfg.proto)) = some (1#24, 3#4) ∧ s.cfg = ⟨0#4, 0#2, 9600#24⟩) ∧
    (let s := facing (.cmd 0x11000003#32) idleState
     onNext (step s) (fun t => t.cfg.spiMode) = some 3#2 ∧ s.cfg.spiMode = 0#2) ∧
    (let s := { pendingState with cfg := ⟨3#4, 0#2, 1#24⟩ }
     s.agenda.head? ≠ some .reset ∧ onNext (step s) State.snap = some ⟨3#4, 0#2, 1#24⟩ ∧ s.snap ≠ s.cfg) ∧
    (let s := facing .wake { pendingState with cfg := ⟨3#4, 0#2, 1#24⟩ }
     s.agenda.head? ≠ some .reset ∧ onNext (step s) State.snap = some ⟨3#4, 0#2, 1#24⟩ ∧ s.snap ≠ s.cfg) := by decide

theorem witness_SampleBufferChanges :
    let s := facing (.tick 7) fillingState
    MemoryInv s ∧ (onNext (step s) fun t => readCell blankSample t.sb 1) = some 7 ∧ readCell blankSample s.sb 1 = 0 :=
  ⟨by constructor <;> decide, by decide, by decide⟩

theorem witness_ReportBufferChanges :
    (onNext (step busyState) fun t => decide (t.rb ≠ busyState.rb)) = some true := by decide +kernel

theorem witness_ParametersNeverChange : ∃ t, step (facing .reset busyState) = .next t := ⟨_, rfl⟩

theorem witness_OneStartGivesOneReport :
    let s := { idleState with agenda := .cmd 0x20000000#32 :: [5, 7].map Turn.tick }
    ControlInv s ∧ MemoryInv s ∧ s.cfg.uartBaud ≠ 0#24 ∧ s.astate = .idle ∧ s.rptValid = false ∧
      decode (.cmd32 0x20000000#32) = .start 0#4 0#24 ∧ [5, 7].length = s.params.half ∧
      s.agenda = .cmd 0x20000000#32 :: [5, 7].map Turn.tick :=
  ⟨by constructor <;> decide, by constructor <;> decide, by decide, rfl, rfl, rfl, rfl, rfl⟩

end Sys2Proof.Tests
end

/-!
PROOFS. The scope of the block (spec/00_scope.md): parameters that no step changes (R6), instances that are not this
block (R5), and agents that hold where their step is not enabled (R9).
-/
namespace Sys2Proof.Proofs

open Sys2Proof.Machine Sys2Proof.Safety Sys2Proof.Laws

/-! WAKE, enabled and held (R161) -/

theorem wake_of_enabled {s : State} (hsig : s.sigPending = true) (hrpt : s.rptValid = false)
    (hbusy : s.decBusy = false) : wake s = claimHalf s := by
  simp [wake, wakeEnabled, hsig, hrpt, hbusy]

/-- WAKE is a hold where one of the three conditions of R161 fails (R9). -/
theorem wake_of_held {s : State} (h : s.sigPending = false ∨ s.rptValid = true ∨ s.decBusy = true) : wake s = s := by
  rcases h with h | h | h <;> simp [wake, wakeEnabled, h]

/-- A scheduled WAKE leaves the rest of the agenda (R140). -/
theorem step_wake_cons {s : State} {rest : List Turn} (h : s.agenda = .wake :: rest) :
    step s = .next (wake { s with agenda := rest }) := step_cons h

/-- With nothing scheduled and no run in flight DISPATCH takes WAKE (R160). -/
theorem step_nil_of_not_busy {s : State} (h : s.agenda = []) (hb : s.decBusy = false) :
    step s = .next (wake s) := by
  rw [step_nil h, hb]
  rfl

/-! Every RUN is one operation, with a decoder of its own (R162) -/

theorem exec_of_isRun {i : Instr} (h : isRun i = true) (s : State) : exec i s = runWith (decoderOf i) s := by
  cases i with
  | runGpio => rfl
  | runSpi => rfl
  | runI2c => rfl
  | runUart => rfl
  | runUnkLow tag => rfl
  | runUnkHigh tag => rfl
  | _ => cases h

theorem runWith_of_not_busy {d : State → Run → Run} {s : State} (hp : s.params.wf = true) (hb : s.decBusy = false) :
    runWith d s = .next s := by
  simp [runWith, runEnabled, hp, hb]

/-! The parameters after each turn (R6) -/

@[simp] theorem advancePointer_params (s : State) : (advancePointer s).params = s.params := by
  rcases advancePointer_cases s with ⟨-, h⟩ | ⟨-, -, h⟩ | ⟨-, -, h⟩ <;> simp [h]

theorem tick_params {p : Sample} {s t : State} (h : tick p s = .next t) : t.params = s.params := by
  rcases tick_next h with ⟨-, rfl⟩ | ⟨-, -, rfl⟩ <;> simp

theorem command_params {w : Word32} {s t : State} (h : command w s = .next t) : t.params = s.params := by
  rcases command_cases w s with hc | ⟨_, hc, -⟩ | ⟨_, hc⟩ | ⟨_, hc, -⟩ | ⟨-, hc⟩
  all_goals
    rw [hc] at h
    cases h
    simp

/-- Settles O56, turn by turn: what a step can do (`step_next`), and what each turn leaves of the parameters. -/
theorem parametersNeverChange : Obligations.ParametersNeverChange := by
  intro s t h
  obtain ⟨rest, hturn⟩ := step_next h
  rcases hturn with ⟨w, -, hcmd⟩ | ⟨-, rfl⟩ | ⟨p, -, htick⟩ | ⟨-, rfl⟩ | ⟨-, -, -, rfl⟩ | ⟨-, -, rfl⟩ | ⟨-, rfl⟩
  · exact (command_params hcmd).trans rfl
  · exact takeReport_params _
  · exact (tick_params htick).trans rfl
  · exact wake_params _
  · exact afterRun_params _ _
  · rfl
  · exact resetPin_params _

/-- Settles O8: a step that is a WAKE claims the half where WAKE is enabled (R161) and holds elsewhere (R9). -/
theorem wakeSnapshotsConfiguration : Obligations.WakeSnapshotsConfiguration := by
  refine ⟨fun s rest ha hsig hrpt hbusy => ?_, fun s rest ha hoff => ?_, fun s ha hsig hrpt hbusy => ?_,
    fun s ha hbusy hoff => ?_⟩
  · exact (step_wake_cons ha).trans (congrArg Host.Outcome.next (wake_of_enabled hsig hrpt hbusy))
  · exact (step_wake_cons ha).trans (congrArg Host.Outcome.next (wake_of_held hoff))
  · exact (step_nil_of_not_busy ha hbusy).trans (congrArg Host.Outcome.next (wake_of_enabled hsig hrpt hbusy))
  · exact (step_nil_of_not_busy ha hbusy).trans (congrArg Host.Outcome.next (wake_of_held (hoff.imp_right .inl)))

/-- Settles O21: construction checks the constraints of R5, and so does every RUN before it looks at the state. -/
theorem illegalInstanceRefused : Obligations.IllegalInstanceRefused := by
  refine ⟨fun p hp => ?_, fun p hp => ?_, fun i s hi hp => ?_⟩
  · simp [State.boot, hp]
  · simp [State.boot, hp]
  · rw [exec_of_isRun hi]
    exact runWith_refused hp

/-- Settles O28: whatever its decoder, a RUN of a legal instance holds while no run is in flight. -/
theorem runHeldWhenNotInFlight : Obligations.RunHeldWhenNotInFlight := by
  intro i s hi hp hb
  rw [exec_of_isRun hi]
  exact runWith_of_not_busy hp hb

end Sys2Proof.Proofs

/-!
PROOFS. The registers of the block (spec/10_state.md): what one step can do, said once, who writes each register
(R21 to R36), and the invariants of R48.
-/
namespace Sys2Proof.Proofs

open Sys2Proof.Machine Sys2Proof.Safety Sys2Proof.Laws

/-! What a command word can do, by its fields (R100, R120 to R127) -/

theorem decode_of_fieldOp_start {w : Word32} (h : fieldOp w = 2#4) :
    decode (.cmd32 w) = .start (fieldProto w) (fieldParam w) := by
  simp [decode, decodeCmd, h]

theorem decode_of_fieldOp_configure {w : Word32} (h : fieldOp w = 1#4) :
    decode (.cmd32 w) = decodeConfigure (fieldProto w) (fieldParam w) := by
  simp [decode, decodeCmd, h]

/-- A word that is neither START nor a configure word is reserved, and changes nothing (R127). -/
theorem command_of_reserved {w : Word32} (hstart : fieldOp w ≠ 2#4) (hcfg : fieldOp w ≠ 1#4) (s : State) :
    command w s = .next s := by
  unfold command decode decodeCmd
  simp only [if_neg hstart, if_neg hcfg]
  split
  · rfl
  split
  · rfl
  split <;> rfl

/-- No configure word is START. -/
theorem decodeConfigure_ne_start (proto proto' : BitVec 4) (param param' : BitVec 24) :
    decodeConfigure proto param ≠ .start proto' param' := by
  unfold decodeConfigure
  split_ifs <;> simp

/-- A word is START by its `OP` alone (R100, R126). -/
theorem fieldOp_of_decode_start {w : Word32} {proto : BitVec 4} {param : BitVec 24}
    (h : decode (.cmd32 w) = .start proto param) : fieldOp w = 2#4 := by
  by_contra hstart
  unfold decode decodeCmd at h
  simp only [if_neg hstart] at h
  split at h
  · exact decodeConfigure_ne_start _ _ _ _ h
  · split_ifs at h

/-- `c'` is what the configure word `w` makes of the configuration `c` (R121 to R124), field by field. -/
structure ConfigWrite (w : Word32) (c c' : Cfg) : Prop where
  op : fieldOp w = 1#4
  proto : c'.proto = fieldProto w
  protoKnown : c'.proto ≤ 3#4
  spiMode : c'.spiMode = c.spiMode ∨ ∃ ignored, decode (.cmd32 w) = .cfgSpi ignored c'.spiMode
  uartBaud : c'.uartBaud = c.uartBaud ∨ (c'.uartBaud ≠ 0#24 ∧ decode (.cmd32 w) = .cfgUart c'.uartBaud)

/-- A configure word writes the configuration and nothing else, or names no protocol and changes nothing
(R121 to R125). -/
theorem command_of_configure {w : Word32} (hop : fieldOp w = 1#4) (s : State) :
    command w s = .next s ∨ ∃ c, ConfigWrite w s.cfg c ∧ command w s = .next { s with cfg := c } := by
  have hdec := decode_of_fieldOp_configure hop
  unfold command
  rw [hdec]
  unfold decodeConfigure at hdec ⊢
  split_ifs at hdec ⊢ with hgpio hspi hi2c huart hlow
  · exact .inr ⟨{ s.cfg with proto := 0#4 }, ⟨hop, hgpio.symm, by simp, .inl rfl, .inl rfl⟩, rfl⟩
  · exact .inr ⟨{ s.cfg with proto := 1#4, spiMode := fieldMode (fieldParam w) },
      ⟨hop, hspi.symm, by simp, .inr ⟨_, hdec⟩, .inl rfl⟩, rfl⟩
  · exact .inr ⟨{ s.cfg with proto := 2#4 }, ⟨hop, hi2c.symm, by simp, .inl rfl, .inl rfl⟩, rfl⟩
  · by_cases hbaud : fieldParam w = 0#24
    · exact .inr ⟨{ s.cfg with proto := 3#4 }, ⟨hop, huart.symm, by simp, .inl rfl, .inl rfl⟩,
        by simp [exec, execCfgUart, hbaud, setProto]⟩
    · exact .inr ⟨{ s.cfg with proto := 3#4, uartBaud := fieldParam w },
        ⟨hop, huart.symm, by simp, .inl rfl, .inr ⟨hbaud, hdec⟩⟩,
        by simp [exec, execCfgUart, hbaud, setProto, setUartBaud]⟩
  · exact .inl rfl
  · exact .inl rfl

/-- START arms an Idle block and changes nothing in a Capturing one (R126). -/
theorem command_of_start {w : Word32} (hop : fieldOp w = 2#4) (s : State) :
    (s.astate = .idle ∧ command w s = .next { arm s with astate := .capturing }) ∨
      (s.astate ≠ .idle ∧ command w s = .next s) := by
  unfold command
  rw [decode_of_fieldOp_start hop]
  cases hmode : s.astate with
  | idle => exact .inl ⟨rfl, by simp [exec, execStart, hmode]⟩
  | capturing => exact .inr ⟨by simp, by simp [exec, execStart, hmode]⟩

/-! What a step can do (R140) -/

/-- What one step makes of `s`, with the turn that does it and the condition under which it does. The agenda loses its
first turn, if it has one. -/
inductive StepCase (s : State) : State → Prop
  /-- A turn with no effect: an ignored command word, a TICK with the trigger off, a WAKE or RUN that is held. -/
  | hold (hstart : ∀ w, s.agenda.head? = some (.cmd w) → ¬ (fieldOp w = 2#4 ∧ s.astate = .idle))
      (htick : ∀ pins, s.agenda.head? = some (.tick pins) → s.trigEn = false) :
      StepCase s { s with agenda := s.agenda.tail }
  /-- CFG of a known protocol (R121 to R124). -/
  | configure (w : Word32) (c : Cfg) (hturn : s.agenda.head? = some (.cmd w)) (hcfg : ConfigWrite w s.cfg c) :
      StepCase s { s with agenda := s.agenda.tail, cfg := c }
  /-- START in Idle (R126). -/
  | start (w : Word32) (hturn : s.agenda.head? = some (.cmd w)) (hop : fieldOp w = 2#4) (hidle : s.astate = .idle) :
      StepCase s { arm { s with agenda := s.agenda.tail } with astate := .capturing }
  /-- TAKE (R128). -/
  | take (hturn : s.agenda.head? = some .take) : StepCase s (takeReport { s with agenda := s.agenda.tail })
  /-- TICK with the trigger on (R142). -/
  | tick (pins : Sample) (hturn : s.agenda.head? = some (.tick pins)) (htrig : s.trigEn = true)
      (hptr : s.wrPtr < s.params.bufSize) :
      StepCase s (advancePointer (storeSample pins { s with agenda := s.agenda.tail }))
  /-- WAKE where it is enabled (R161). -/
  | wake (hturn : s.agenda.head? = some .wake ∨ s.agenda = []) (hsig : s.sigPending = true)
      (hfree : s.rptValid = false) (hbusy : s.decBusy = false) :
      StepCase s (claimHalf { s with agenda := s.agenda.tail })
  /-- RUN where it is enabled (R162). -/
  | run (hturn : dispatchRuns s) (hbusy : s.decBusy = true) (hlegal : s.params.wf = true) :
      StepCase s (afterRun (decoderOf (decodeTag s.snap.proto)) { s with agenda := s.agenda.tail })
  /-- RESET (R340). -/
  | reset (hturn : s.agenda.head? = some .reset) : StepCase s (resetPin { s with agenda := s.agenda.tail })

/-- The case of a command word (R120). -/
theorem stepCase_of_command {w : Word32} {s t : State} (hturn : s.agenda.head? = some (.cmd w))
    (h : command w { s with agenda := s.agenda.tail } = .next t) : StepCase s t := by
  have hold_of : ¬ (fieldOp w = 2#4 ∧ s.astate = .idle) → StepCase s { s with agenda := s.agenda.tail } := fun hno =>
    .hold (by simpa [hturn] using hno) (by simp [hturn])
  by_cases hstart : fieldOp w = 2#4
  · rcases command_of_start hstart { s with agenda := s.agenda.tail } with ⟨hidle, heq⟩ | ⟨hcapt, heq⟩
    · cases heq.symm.trans h
      exact .start w hturn hstart hidle
    · cases heq.symm.trans h
      exact hold_of fun hno => hcapt hno.2
  · by_cases hop : fieldOp w = 1#4
    · rcases command_of_configure hop { s with agenda := s.agenda.tail } with heq | ⟨c, hcfg, heq⟩
      · cases heq.symm.trans h
        exact hold_of fun hno => hstart hno.1
      · cases heq.symm.trans h
        exact .configure w c hturn hcfg
    · cases (command_of_reserved hstart hop _).symm.trans h
      exact hold_of fun hno => hstart hno.1

/-- The turn taken and the agenda left, read off the agenda. -/
theorem head_tail_of_scheduled {s : State} {u : Turn} {rest : List Turn} (h : s.agenda = u :: rest) :
    s.agenda.head? = some u ∧ rest = s.agenda.tail := by simp [h]

/-- The same for a turn that DISPATCH also takes when nothing is scheduled. -/
theorem head_tail_of_dispatch {s : State} {u : Turn} {rest : List Turn}
    (h : s.agenda = u :: rest ∨ (s.agenda = [] ∧ rest = [])) :
    (s.agenda.head? = some u ∨ s.agenda = []) ∧ rest = s.agenda.tail := by
  rcases h with h | ⟨h, rfl⟩ <;> simp [h]

/-- Everything a step can do (`step_next`), by the turn that has an effect. -/
theorem stepCase_of_step {s t : State} (h : step s = .next t) : StepCase s t := by
  obtain ⟨rest, hturn⟩ := step_next h
  rcases hturn with ⟨w, ha, hcmd⟩ | ⟨ha, rfl⟩ | ⟨pins, ha, htick⟩ | ⟨ha, rfl⟩ | ⟨ha, hbusy, hlegal, rfl⟩ | ⟨ha, -, rfl⟩ |
    ⟨ha, rfl⟩
  · obtain ⟨hhead, rfl⟩ := head_tail_of_scheduled ha
    exact stepCase_of_command hhead hcmd
  · obtain ⟨hhead, rfl⟩ := head_tail_of_scheduled ha
    exact .take hhead
  · obtain ⟨hhead, rfl⟩ := head_tail_of_scheduled ha
    rcases tick_next htick with ⟨htrig, rfl⟩ | ⟨htrig, hptr, rfl⟩
    · exact .hold (by simp [hhead]) fun _ _ => htrig
    · exact .tick pins hhead htrig hptr
  · obtain ⟨hhead, rfl⟩ := head_tail_of_dispatch (ha.imp_right fun ⟨hnil, hrest, _⟩ => ⟨hnil, hrest⟩)
    rcases wake_cases { s with agenda := s.agenda.tail } with ⟨hsig, hfree, hbusy, heq⟩ | ⟨-, heq⟩ <;> rw [heq]
    · exact .wake hhead hsig hfree hbusy
    · rcases hhead with hhead | hhead <;> exact .hold (by simp [hhead]) (by simp [hhead])
  · obtain ⟨hhead, rfl⟩ := head_tail_of_dispatch ha
    exact .run hhead hbusy hlegal
  · obtain ⟨hhead, rfl⟩ := head_tail_of_scheduled ha
    exact .hold (by simp [hhead]) (by simp [hhead])
  · obtain ⟨hhead, rfl⟩ := head_tail_of_scheduled ha
    exact .reset hhead

/-! What the move of the write pointer leaves (R142) -/

/-- TICK writes the pointer, the trigger, the signal and `served`; the other registers stay. -/
@[simp] theorem advancePointer_frame (s : State) :
    (advancePointer s).astate = s.astate ∧ (advancePointer s).noteEn = s.noteEn ∧ (advancePointer s).cfg = s.cfg ∧
      (advancePointer s).snap = s.snap ∧ (advancePointer s).rptValid = s.rptValid ∧
      (advancePointer s).rptLen = s.rptLen ∧ (advancePointer s).sb = s.sb ∧ (advancePointer s).rb = s.rb ∧
      (advancePointer s).scr = s.scr := by
  rcases advancePointer_cases s with ⟨-, h⟩ | ⟨-, -, h⟩ | ⟨-, -, h⟩ <;> simp [h]

/-- The trigger after a TICK: stopped by the wrap alone (R145). -/
theorem advancePointer_trigEn (s : State) :
    (advancePointer s).trigEn = s.trigEn ∨ ((advancePointer s).trigEn = false ∧ s.wrPtr + 1 = s.params.bufSize) := by
  rcases advancePointer_cases s with ⟨-, h⟩ | ⟨-, hwrap, h⟩ | ⟨-, -, h⟩
  · exact .inl (by simp [h])
  · exact .inr ⟨by simp [h], hwrap⟩
  · exact .inl (by simp [h])

/-! Who writes what (the Writers of R21 to R36) -/

/-- Settles O50: of the turns that have an effect, only START, RUN and RESET write `astate`. -/
theorem modeChanges : Obligations.ModeChanges := by
  intro s t h
  cases stepCase_of_step h with
  | start w hturn hop hidle =>
    exact ⟨fun _ _ => ⟨w, _, _, hturn, decode_of_fieldOp_start hop⟩, by simp⟩
  | run hturn hbusy => exact ⟨by simp, fun _ _ => .inr ⟨hturn, hbusy, rfl⟩⟩
  | reset hturn => exact ⟨by simp, fun _ _ => .inl hturn⟩
  | hold | configure | take | tick | wake => constructor <;> simp +contextual

/-- Settles O51: of the turns that have an effect, only START, RUN and RESET write `note_en`, and besides them only the
TICK that wraps writes `trig_en`. -/
theorem triggerChanges : Obligations.TriggerChanges := by
  intro s t h
  cases stepCase_of_step h with
  | start w hturn hop hidle =>
    exact ⟨fun _ => ⟨hidle, w, _, _, hturn, decode_of_fieldOp_start hop⟩, by simp, by simp⟩
  | tick pins hturn htrig hptr =>
    refine ⟨by simp [htrig], fun _ hoff => ?_, by simp +contextual⟩
    rcases advancePointer_trigEn (storeSample pins { s with agenda := s.agenda.tail }) with hsame | ⟨-, hwrap⟩
    · rw [hsame] at hoff
      exact absurd hoff (by simp [htrig])
    · exact .inr (.inr ⟨⟨pins, hturn⟩, hwrap⟩)
  | run hturn hbusy => exact ⟨by simp, fun _ _ => .inr (.inl ⟨hturn, hbusy⟩), fun _ _ => .inr ⟨hturn, hbusy⟩⟩
  | reset hturn => exact ⟨by simp, fun _ _ => .inl hturn, fun _ _ => .inl hturn⟩
  | hold | configure | take | wake => refine ⟨?_, ?_, ?_⟩ <;> simp +contextual

/-- Settles O52: of the turns that have an effect, only TAKE, RUN and RESET write `rpt_valid`. -/
theorem reportSlotChanges : Obligations.ReportSlotChanges := by
  intro s t h
  cases stepCase_of_step h with
  | take hturn => exact ⟨by simp, fun _ _ => .inl hturn⟩
  | run hturn hbusy => exact ⟨fun _ _ => ⟨hturn, hbusy⟩, by simp⟩
  | reset hturn => exact ⟨by simp, fun _ _ => .inr hturn⟩
  | hold | configure | start | tick | wake => constructor <;> simp +contextual

/-- Settles O53: besides RESET only a configure word writes `cfg`, field by field as `ConfigWrite` says, and only WAKE
writes `snap`. -/
theorem configurationChanges : Obligations.ConfigurationChanges := by
  intro s t h hnoReset
  cases stepCase_of_step h with
  | configure w c hturn hcfg =>
    refine ⟨fun hbaud => ?_, fun hmode => ?_, fun _ => ⟨hcfg.protoKnown, w, hturn, hcfg.op, hcfg.proto.symm⟩, by simp⟩
    · obtain ⟨-, hdec⟩ := hcfg.uartBaud.resolve_left hbaud
      exact ⟨w, hturn, hdec⟩
    · obtain ⟨ignored, hdec⟩ := hcfg.spiMode.resolve_left hmode
      exact ⟨w, ignored, hturn, hdec⟩
  | wake hturn hsig hfree hbusy =>
    exact ⟨by simp, by simp, by simp, fun _ => ⟨hturn, by simp [wakeEnabled, hsig, hfree, hbusy], rfl, rfl, rfl, rfl⟩⟩
  | reset hturn => exact absurd hturn hnoReset
  | hold | start | take | tick | run => refine ⟨?_, ?_, ?_, ?_⟩ <;> simp

/-- Settles O54: of the turns that have an effect, only TICK writes SB, one element of it. -/
theorem sampleBufferChanges : Obligations.SampleBufferChanges := by
  intro s t a hmem h hne
  cases stepCase_of_step h with
  | tick pins hturn htrig hptr =>
    simp only [advancePointer_frame, storeSample_sb] at hne ⊢
    have ha : a = s.wrPtr := by
      by_contra hother
      exact hne (readCell_writeCell_other hmem.sbWf _ hother)
    subst ha
    exact ⟨htrig, rfl, pins, hturn, readCell_writeCell_same hmem.sbWf _ _⟩
  | hold | configure | start | take | wake | run | reset => exact absurd rfl hne

/-- Settles O55: of the turns that have an effect, only RUN writes RB and SCR. -/
theorem reportBufferChanges : Obligations.ReportBufferChanges := by
  intro s t h hne
  cases stepCase_of_step h with
  | run hturn hbusy => exact ⟨hturn, hbusy⟩
  | hold | configure | start | take | tick | wake | reset => simp at hne

/-! What legal parameters give (R5) -/

theorem params_wf_iff {p : Params} :
    p.wf = true ↔ p.bufSize % 2 = 0 ∧ 2 ≤ p.bufSize ∧ 8 ≤ p.sampleWidth ∧ 1 ≤ p.fmtReserve ∧
      p.fmtReserve < p.reportCap ∧ p.fmtReserve < p.scratchCap ∧ 1 ≤ p.sampleRate ∧ p.uartBaudReset ≠ 0#24 := by
  simp [Params.wf, ParamRule.all, Params.obeys]

/-- The Sample Buffer is two halves of at least one Sample. -/
theorem bufSize_eq {p : Params} (h : p.wf = true) : p.bufSize = 2 * p.half ∧ 0 < p.half := by
  obtain ⟨heven, htwo, -⟩ := params_wf_iff.1 h
  unfold Params.half
  omega

theorem uartBaudReset_ne_zero {p : Params} (h : p.wf = true) : p.uartBaudReset ≠ 0#24 := by
  obtain ⟨-, -, -, -, -, -, -, hbaud⟩ := params_wf_iff.1 h
  exact hbaud

/-! The configuration invariant (R29, R31) -/

/-- The invariant speaks of the parameters, `cfg` and `snap` alone. -/
theorem cfgInv_congr {s t : State} (h : CfgInv s) (hparams : t.params = s.params) (hcfg : t.cfg = s.cfg)
    (hsnap : t.snap = s.snap) : CfgInv t := by
  obtain ⟨hlegal, hcfgBaud, hsnapBaud, hcfgProto, hsnapProto⟩ := h
  constructor <;> simpa only [hparams, hcfg, hsnap]

/-- The reset configuration meets what is asked of `cfg` and of `snap`. -/
theorem cfgInv_of_atReset {s : State} (hp : s.params.wf = true) (hcfg : s.cfg = Cfg.atReset s.params)
    (hsnap : s.snap = Cfg.atReset s.params) : CfgInv s where
  legal := hp
  cfgBaud := by rw [hcfg]; exact uartBaudReset_ne_zero hp
  snapBaud := by rw [hsnap]; exact uartBaudReset_ne_zero hp
  cfgProto := .inr (by rw [hcfg]; rfl)
  snapProto := .inr (by rw [hsnap]; rfl)

/-- Settles O44: a configure word writes only known tags and a baud that is not 0, WAKE copies `cfg`, and RESET takes the
values of R5. -/
theorem stepKeepsCfgInv : Obligations.StepKeepsCfgInv := by
  intro s t hs h
  cases stepCase_of_step h with
  | configure w c hturn hcfg =>
    refine { hs with cfgBaud := ?_, cfgProto := .inl hcfg.protoKnown }
    rcases hcfg.uartBaud with hsame | ⟨hbaud, -⟩
    · exact hsame.trans_ne hs.cfgBaud
    · exact hbaud
  | wake => exact { hs with snapBaud := hs.cfgBaud, snapProto := hs.cfgProto }
  | reset => exact cfgInv_of_atReset hs.legal rfl rfl
  | hold | start | take | tick | run => exact cfgInv_congr hs (by simp) (by simp) (by simp)

/-! The control invariants (R48 items 1 to 6) -/

/-- Idle, disarmed, nothing pending and no run in flight (items 1 to 6 hold with nothing to say). -/
theorem controlInv_of_quiet {s : State} (hp : s.params.wf = true) (htrig : s.trigEn = false) (hnote : s.noteEn = false)
    (hsig : s.sigPending = false) (hbusy : s.decBusy = false) (hptr : s.wrPtr < s.params.bufSize)
    (hfirst : s.sigHalf = .first ∧ s.decHalf = .first) : ControlInv s := by
  constructor <;> simp_all

/-- While the trigger is on, half 0 is being filled and no run is due, or half 0 is served and half 1 is being filled. -/
theorem controlInv_filling {s : State} (h : ControlInv s) (htrig : s.trigEn = true) :
    (s.served = false ∧ s.wrPtr < s.params.half ∧ s.sigPending = false ∧ s.decBusy = false) ∨
      (s.served = true ∧ s.params.half ≤ s.wrPtr) := by
  cases hserved : s.served with
  | true => exact .inr ⟨rfl, h.servedSecondHalf hserved htrig⟩
  | false =>
    have hnote := (h.trigCapturing htrig).2
    refine .inl ⟨rfl, (h.unservedFilling hnote hserved).1, ?_, ?_⟩
    · refine Bool.eq_false_iff.2 fun hsig => ?_
      obtain ⟨hserved', -⟩ := h.pendingServed hsig
      simp [hserved] at hserved'
    · refine Bool.eq_false_iff.2 fun hbusy => ?_
      obtain ⟨-, hserved', -⟩ := h.busyExclusive hbusy
      simp [hserved] at hserved'

/-- The moves of the pointer under the invariants: the end of half 0 posts its signal, the wrap only stops the trigger
(R143, R145). -/
theorem advancePointer_cases_of_control {s : State} (h : ControlInv s) (htrig : s.trigEn = true) :
    (s.served = false ∧ s.wrPtr + 1 = s.params.half ∧
        advancePointer s = postSignal .first { s with wrPtr := s.params.half }) ∨
      (s.served = true ∧ s.wrPtr + 1 = s.params.bufSize ∧
        advancePointer s = { s with wrPtr := 0, trigEn := false }) ∨
      (s.wrPtr + 1 ≠ s.params.half ∧ s.wrPtr + 1 ≠ s.params.bufSize ∧
        advancePointer s = { s with wrPtr := s.wrPtr + 1 }) := by
  obtain ⟨hsize, hhalf⟩ := bufSize_eq h.legal
  have hnote := (h.trigCapturing htrig).2
  have hfill := controlInv_filling h htrig
  rcases advancePointer_cases s with ⟨hend, heq⟩ | ⟨-, hwrap, heq⟩ | hmid
  · have hserved : s.served = false := by
      rcases hfill with ⟨hserved, -⟩ | ⟨-, hsecond⟩
      · exact hserved
      · omega
    exact .inl ⟨hserved, hend, by simp [heq, notify, hnote, hserved]⟩
  · have hserved : s.served = true := by
      rcases hfill with ⟨-, hfirst, -⟩ | ⟨hserved, -⟩
      · omega
      · exact hserved
    exact .inr (.inl ⟨hserved, hwrap, by simp [heq, notify, hserved]⟩)
  · exact .inr (.inr hmid)

/-- Storing a Sample touches no control register. -/
theorem controlInv_storeSample {s : State} (h : ControlInv s) (pins : Sample) : ControlInv (storeSample pins s) :=
  { h with }

/-- START in Idle begins to fill half 0 (R126, R141). -/
theorem controlInv_start {s : State} (h : ControlInv s) (hidle : s.astate = .idle) :
    ControlInv { arm s with astate := .capturing } := by
  obtain ⟨hsize, hhalf⟩ := bufSize_eq h.legal
  obtain ⟨-, -, hsig, hbusy⟩ := h.idleQuiet hidle
  have hfirst := h.neverSecond
  exact {
    legal := h.legal
    idleQuiet := by simp
    pendingServed := by simp [hsig]
    busyExclusive := by simp [hbusy]
    pendingFirst := by simp [hsig]
    busyFirst := by simp [hbusy]
    trigCapturing := by simp
    unservedFilling := by simp [hhalf]
    servedSecondHalf := by simp
    pointerInRange := show 0 < s.params.bufSize by omega
    neverSecond := hfirst }

/-- The end of half 0 hands it to the dispatcher (R143). -/
theorem controlInv_postFirst {s : State} (h : ControlInv s) (htrig : s.trigEn = true) (hserved : s.served = false) :
    ControlInv (postSignal .first { s with wrPtr := s.params.half }) := by
  obtain ⟨hsize, hhalf⟩ := bufSize_eq h.legal
  obtain ⟨hcapt, -⟩ := h.trigCapturing htrig
  have hbusy : s.decBusy = false := by
    rcases controlInv_filling h htrig with ⟨-, -, -, hbusy⟩ | ⟨hs, -⟩
    · exact hbusy
    · simp [hserved] at hs
  have hfirst := h.neverSecond.2
  exact {
    legal := h.legal
    idleQuiet := by simp [hcapt]
    pendingServed := by simp [hcapt, hbusy]
    busyExclusive := by simp [hbusy]
    pendingFirst := by simp [FirstHalfWritten]
    busyFirst := by simp [hbusy]
    trigCapturing := h.trigCapturing
    unservedFilling := by simp
    servedSecondHalf := by simp
    pointerInRange := show s.params.half < s.params.bufSize by omega
    neverSecond := by simp [hfirst] }

/-- The wrap stops the trigger, and half 0 stays written (R145). -/
theorem controlInv_wrap {s : State} (h : ControlInv s) (htrig : s.trigEn = true) (hserved : s.served = true) :
    ControlInv { s with wrPtr := 0, trigEn := false } := by
  have hcapt := (h.trigCapturing htrig).1
  have hsize := bufSize_eq h.legal
  exact { h with
    idleQuiet := by simp [hcapt]
    pendingFirst := fun hsig => ⟨(h.pendingFirst hsig).1, .inr ⟨rfl, rfl⟩⟩
    busyFirst := fun hbusy => ⟨(h.busyFirst hbusy).1, .inr ⟨rfl, rfl⟩⟩
    trigCapturing := by simp
    unservedFilling := by simp [hserved]
    servedSecondHalf := by simp
    pointerInRange := show 0 < s.params.bufSize by omega }

/-- Inside a half the pointer only moves on (R142). -/
theorem controlInv_movePointer {s : State} (h : ControlInv s) (htrig : s.trigEn = true)
    (hend : s.wrPtr + 1 ≠ s.params.half) (hwrap : s.wrPtr + 1 ≠ s.params.bufSize) :
    ControlInv { s with wrPtr := s.wrPtr + 1 } := by
  have hptr := h.pointerInRange
  have hsecond : s.served = true → s.params.half ≤ s.wrPtr + 1 := fun hserved =>
    (h.servedSecondHalf hserved htrig).trans (Nat.le_succ _)
  exact { h with
    pendingFirst := fun hsig => ⟨(h.pendingFirst hsig).1, .inl (hsecond (h.pendingServed hsig).1)⟩
    busyFirst := fun hbusy =>
      have ⟨_, hserved, _⟩ := h.busyExclusive hbusy
      ⟨(h.busyFirst hbusy).1, .inl (hsecond hserved)⟩
    unservedFilling := fun hnote hserved => by
      have hfirst := (h.unservedFilling hnote hserved).1
      exact ⟨show s.wrPtr + 1 < s.params.half by omega, htrig⟩
    servedSecondHalf := fun hserved _ => hsecond hserved
    pointerInRange := show s.wrPtr + 1 < s.params.bufSize by omega }

/-- TICK with the trigger on keeps the invariants, by the three moves of the pointer. -/
theorem controlInv_advancePointer {s : State} (h : ControlInv s) (htrig : s.trigEn = true) :
    ControlInv (advancePointer s) := by
  rcases advancePointer_cases_of_control h htrig with ⟨hserved, -, heq⟩ | ⟨hserved, -, heq⟩ | ⟨hend, hwrap, heq⟩
  · exact heq ▸ controlInv_postFirst h htrig hserved
  · exact heq ▸ controlInv_wrap h htrig hserved
  · exact heq ▸ controlInv_movePointer h htrig hend hwrap

/-- WAKE turns the signal for half 0 into the run that decodes it (R161). -/
theorem controlInv_claimHalf {s : State} (h : ControlInv s) (hsig : s.sigPending = true) (hfree : s.rptValid = false) :
    ControlInv (claimHalf s) := by
  obtain ⟨hserved, hcapt, -⟩ := h.pendingServed hsig
  have hfirst := h.pendingFirst hsig
  exact { h with
    idleQuiet := by simp [hcapt]
    pendingServed := by simp
    busyExclusive := fun _ => ⟨hcapt, hserved, rfl, hfree⟩
    pendingFirst := by simp
    busyFirst := fun _ => hfirst
    neverSecond := ⟨hfirst.1, hfirst.1⟩ }

/-- RUN ends in Idle, disarmed (R164). -/
theorem controlInv_afterRun {s : State} (h : ControlInv s) (hbusy : s.decBusy = true) (d : State → Run → Run) :
    ControlInv (afterRun d s) :=
  have ⟨_, _, hsig, _⟩ := h.busyExclusive hbusy
  controlInv_of_quiet h.legal rfl rfl hsig rfl h.pointerInRange h.neverSecond

/-- TAKE empties the slot, which a run in flight has empty already (R128). -/
theorem controlInv_takeReport {s : State} (h : ControlInv s) : ControlInv (takeReport s) :=
  { h with
    busyExclusive := fun hbusy =>
      have ⟨hcapt, hserved, hsig, _⟩ := h.busyExclusive hbusy
      ⟨hcapt, hserved, hsig, rfl⟩ }

/-- RESET is Idle, disarmed (R340). -/
theorem controlInv_resetPin {s : State} (h : ControlInv s) : ControlInv (resetPin s) :=
  controlInv_of_quiet h.legal rfl rfl rfl rfl (Nat.zero_lt_of_lt h.pointerInRange) ⟨rfl, rfl⟩

/-- The invariants say nothing of the agenda. -/
theorem controlInv_withAgenda {s : State} (h : ControlInv s) (rest : List Turn) :
    ControlInv { s with agenda := rest } := { h with }

/-- Settles O42, one lemma for each turn that writes a control register. -/
theorem stepKeepsControlInv : Obligations.StepKeepsControlInv := by
  intro s t hs h
  have hu := controlInv_withAgenda hs s.agenda.tail
  cases stepCase_of_step h with
  | hold => exact hu
  | configure => exact { hu with }
  | start w hturn hop hidle => exact controlInv_start hu hidle
  | take => exact controlInv_takeReport hu
  | tick pins hturn htrig hptr => exact controlInv_advancePointer (controlInv_storeSample hu pins) htrig
  | wake hturn hsig hfree hbusy => exact controlInv_claimHalf hu hsig hfree
  | run hturn hbusy => exact controlInv_afterRun hu hbusy _
  | reset => exact controlInv_resetPin hu

/-! What has been written since the last arm (R48 items 4 and 7): how a turn extends the list, and what it then holds -/

/-- START in Idle begins a new list. -/
theorem writtenAfter_start {s : State} {w : Word32} (hturn : s.agenda.head? = some (.cmd w)) (hop : fieldOp w = 2#4)
    (hidle : s.astate = .idle) (written : List Nat) : writtenAfter s written = [] := by
  simp [writtenAfter, hturn, hop, hidle]

/-- A TICK with the trigger on adds the pointer. -/
theorem writtenAfter_tick {s : State} {pins : Sample} (hturn : s.agenda.head? = some (.tick pins))
    (htrig : s.trigEn = true) (written : List Nat) : writtenAfter s written = s.wrPtr :: written := by
  simp [writtenAfter, hturn, htrig]

/-- Any other turn leaves the list. -/
theorem writtenAfter_other {s : State}
    (hstart : ∀ w, s.agenda.head? = some (.cmd w) → ¬ (fieldOp w = 2#4 ∧ s.astate = .idle))
    (htick : ∀ pins, s.agenda.head? = some (.tick pins) → s.trigEn = false) (written : List Nat) :
    writtenAfter s written = written := by
  unfold writtenAfter
  split
  next w hturn => exact if_neg (hstart w hturn)
  next pins hturn => simp [htick pins hturn]
  all_goals rfl

/-- DISPATCH writes no Sample. -/
theorem writtenAfter_dispatch {s : State} {u : Turn} (hu : u = .wake ∨ u = .run)
    (hturn : s.agenda.head? = some u ∨ s.agenda = []) (written : List Nat) : writtenAfter s written = written := by
  rcases hturn with hturn | hturn
  · rcases hu with rfl | rfl <;> simp [writtenAfter, hturn]
  · simp [writtenAfter, hturn]

/-- The trigger off and no run due: of the history only item 7 and the range of the indices are left to say. -/
theorem sampleHistory_of_quiet {s : State} {written : List Nat} (hone : written.Nodup)
    (hrange : ∀ a ∈ written, a < s.params.bufSize) (htrig : s.trigEn = false) (hsig : s.sigPending = false)
    (hbusy : s.decBusy = false) : SampleHistory s written := by
  constructor <;> simp_all

/-- A machine just armed has written nothing (R141). -/
theorem sampleHistory_armed {s : State} (hptr : s.wrPtr = 0) (hsig : s.sigPending = false) (hbusy : s.decBusy = false) :
    SampleHistory s [] := by
  constructor <;> simp_all

/-- START in Idle arms a machine with no run due. -/
theorem sampleHistory_start {s : State} (hctl : ControlInv s) (hidle : s.astate = .idle) :
    SampleHistory { arm s with astate := .capturing } [] := by
  obtain ⟨-, -, hsig, hbusy⟩ := hctl.idleQuiet hidle
  exact sampleHistory_armed rfl hsig hbusy

/-- The pointer names no index already written (item 7), so a Sample stored there keeps the list free of repeats; the
indices below the next pointer have then been written. -/
theorem sampleHistory_cons {s t : State} {written : List Nat} (hctl : ControlInv s) (hist : SampleHistory s written)
    (htrig : s.trigEn = true) (hparams : t.params = s.params) (hptr : t.trigEn = true → t.wrPtr = s.wrPtr + 1)
    (hdue : t.sigPending = true ∨ t.decBusy = true →
      s.wrPtr + 1 = s.params.half ∨ s.sigPending = true ∨ s.decBusy = true) :
    SampleHistory t (s.wrPtr :: written) where
  once := List.nodup_cons.2 ⟨fun hmem => lt_irrefl _ ((hist.filling htrig _).1 hmem), hist.once⟩
  inRange a ha := by
    rw [hparams]
    rcases List.mem_cons.1 ha with rfl | ha
    · exact hctl.pointerInRange
    · exact hist.inRange a ha
  filling htrig' a := by
    rw [hptr htrig', List.mem_cons, hist.filling htrig]
    omega
  halfWritten hrun a ha := by
    rw [hparams] at ha
    rw [List.mem_cons]
    rcases hdue hrun with hend | hbefore
    · rw [hist.filling htrig]
      omega
    · exact .inr (hist.halfWritten hbefore a ha)

/-- TICK with the trigger on writes the pointer's index, by the three moves of the pointer. -/
theorem sampleHistory_advancePointer {s : State} {written : List Nat} (hctl : ControlInv s)
    (hist : SampleHistory s written) (htrig : s.trigEn = true) :
    SampleHistory (advancePointer s) (s.wrPtr :: written) := by
  rcases advancePointer_cases_of_control hctl htrig with ⟨-, hend, heq⟩ | ⟨-, -, heq⟩ | ⟨-, -, heq⟩ <;> rw [heq]
  · exact sampleHistory_cons hctl hist htrig rfl (fun _ => hend.symm) fun _ => .inl hend
  · exact sampleHistory_cons hctl hist htrig rfl (fun hoff => nomatch hoff) fun hdue => .inr hdue
  · exact sampleHistory_cons hctl hist htrig rfl (fun _ => rfl) fun hdue => .inr hdue

/-- Settles O58, turn by turn: START begins a list, TICK adds the pointer, WAKE turns the signal for half 0 into its run,
RUN and RESET leave nothing due. -/
theorem stepKeepsSampleHistory : Obligations.StepKeepsSampleHistory := by
  intro s t written hctl hist h
  have hctl' := controlInv_withAgenda hctl s.agenda.tail
  have hist' : SampleHistory { s with agenda := s.agenda.tail } written := { hist with }
  cases stepCase_of_step h with
  | hold hstart htick =>
    rw [writtenAfter_other hstart htick]
    exact hist'
  | configure w c hturn hcfg =>
    rw [writtenAfter_other (by simp [hturn, hcfg.op]) (by simp [hturn])]
    exact { hist with }
  | start w hturn hop hidle =>
    rw [writtenAfter_start hturn hop hidle]
    exact sampleHistory_start hctl' hidle
  | take hturn =>
    rw [writtenAfter_other (by simp [hturn]) (by simp [hturn])]
    exact { hist with }
  | tick pins hturn htrig hptr =>
    rw [writtenAfter_tick hturn htrig]
    exact sampleHistory_advancePointer (controlInv_storeSample hctl' pins) { hist' with } htrig
  | wake hturn hsig hfree hbusy =>
    rw [writtenAfter_dispatch (by simp) hturn]
    exact { hist with halfWritten := fun _ => hist.halfWritten (.inl hsig) }
  | run hturn hbusy =>
    rw [writtenAfter_dispatch (by simp) hturn]
    obtain ⟨-, -, hsig, -⟩ := hctl.busyExclusive hbusy
    exact sampleHistory_of_quiet hist.once hist.inRange rfl hsig rfl
  | reset hturn =>
    rw [writtenAfter_other (by simp [hturn]) (by simp [hturn])]
    exact sampleHistory_of_quiet hist.once hist.inRange rfl rfl rfl

/-- Settles O59: nothing is written at reset, and a START accepted in Idle arms (R126, R141). -/
theorem sampleHistoryBegins : Obligations.SampleHistoryBegins := by
  refine ⟨fun p => sampleHistory_armed rfl rfl rfl, fun s w rest proto param written hctl ha hdec hidle => ?_⟩
  have hop := fieldOp_of_decode_start hdec
  obtain ⟨-, heq⟩ | ⟨hcapt, -⟩ := command_of_start hop { s with agenda := rest }
  · exact ⟨_, (step_cons ha).trans heq, rfl, writtenAfter_start (by simp [ha]) hop hidle written,
      sampleHistory_start (controlInv_withAgenda hctl rest) hidle⟩
  · exact absurd hidle hcapt

/-! The ready Report (R48 item 8): what every decoder does to RB is a row of appends (R167) -/

/-- RB of a run holds some text below its cursor and reads as `m0` above it. -/
def WroteSome (p : Params) (m0 : List Host.Cell) (r : Run) : Prop := ∃ text, Wrote p m0 r text

section Appends

variable {p : Params} {m0 : List Host.Cell} {r : Run}

theorem wroteSome_init (h : Memory.wf blankByte r.rb) : WroteSome p r.rb (initRun r) := ⟨[], wrote_init h⟩

theorem WroteSome.append (h : WroteSome p m0 r) (t : Text) : WroteSome p m0 (append p t r) :=
  let ⟨_, hw⟩ := h
  ⟨_, hw.append t⟩

/-- What writes neither RB nor its cursor keeps the text. -/
theorem WroteSome.congr {r' : Run} (h : WroteSome p m0 r) (hrb : r'.rb = r.rb) (hfmt : r'.work.fmt.cur = r.work.fmt.cur) :
    WroteSome p m0 r' :=
  let ⟨text, hw⟩ := h
  ⟨text, hw.congr hrb hfmt⟩

theorem WroteSome.appendComma (h : WroteSome p m0 r) : WroteSome p m0 (appendComma p r) := by
  unfold Machine.appendComma
  split
  · exact h
  · exact h.append _

theorem WroteSome.emitEvent (h : WroteSome p m0 r) (t : Text) : WroteSome p m0 (emitEvent p t r) :=
  (h.appendComma.append t).congr rfl rfl

/-- A scan keeps what each of its steps keeps. -/
theorem WroteSome.scan {f : Nat → Run → Run} (hstep : ∀ i r, WroteSome p m0 r → WroteSome p m0 (f i r)) (i n : Nat)
    (h : WroteSome p m0 r) : WroteSome p m0 (scan f i n r) :=
  scan_induct (P := fun _ r => WroteSome p m0 r) (fun _ _ _ hr => hr.congr rfl rfl) h fun j r _ _ hr => hstep j r hr

end Appends

/-! The steps of the four decoders -/

section Decoders

variable {s : State} {m0 : List Host.Cell} {r : Run}

theorem wroteSome_gpioInitialRecord (c : Nat) (h : WroteSome s.params m0 r) :
    WroteSome s.params m0 (gpioInitialRecord s c r) := by
  unfold gpioInitialRecord gpioSetSep
  split
  · exact h.congr (by simp) (by simp)
  · exact h

theorem wroteSome_gpioStep (c i : Nat) (h : WroteSome s.params m0 r) : WroteSome s.params m0 (gpioStep s c i r) := by
  unfold gpioStep gpioMark gpioSeparator
  split
  · split <;> exact h.congr (by simp) (by simp)
  · exact h

theorem wroteSome_gpioMerge (c : Nat) (h : WroteSome s.params m0 r) : WroteSome s.params m0 (gpioMerge s c r) := by
  unfold gpioMerge
  split
  · exact (((h.appendComma.append _).append _).append _).congr rfl rfl
  · exact h

theorem wroteSome_gpioScan (c : Nat) (h : WroteSome s.params m0 r) : WroteSome s.params m0 (gpioScan s c r) := by
  have hstart : WroteSome s.params m0 (gpioStart c r) := h.congr rfl rfl
  exact wroteSome_gpioMerge c
    ((wroteSome_gpioInitialRecord c hstart).scan (fun i _ => wroteSome_gpioStep c i) _ _)

theorem wroteSome_gpioChannels (c n : Nat) (h : WroteSome s.params m0 r) :
    WroteSome s.params m0 (gpioChannels s c n r) := by
  induction n generalizing c r with
  | zero => exact h
  | succ n ih => exact ih (c + 1) (wroteSome_gpioScan c h)

theorem wroteSome_spiStep (i : Nat) (h : WroteSome s.params m0 r) : WroteSome s.params m0 (spiStep s i r) := by
  have hselect : WroteSome s.params m0 (r.setSpi (spiSelect s i r.work.spi)) := h.congr rfl rfl
  unfold spiStep spiClock spiEmit
  split
  · simp only
    split
    · exact (hselect.emitEvent _).congr rfl rfl
    · exact hselect.congr rfl rfl
  · exact hselect

theorem wroteSome_i2cConditions (i : Nat) (h : WroteSome s.params m0 r) :
    WroteSome s.params m0 (i2cConditions s i r) := by
  unfold i2cConditions i2cEmit
  split
  · exact (h.emitEvent _).congr rfl rfl
  split
  · exact (h.emitEvent _).congr rfl rfl
  · exact h

theorem wroteSome_i2cClock (i : Nat) (h : WroteSome s.params m0 r) : WroteSome s.params m0 (i2cClock s i r) := by
  unfold i2cClock i2cDataBit i2cAckBit i2cEmit
  split
  · split
    · exact h
    · simp only
      split
      · exact (h.emitEvent _).congr rfl rfl
      · exact h.congr rfl rfl
    · exact (h.emitEvent _).congr rfl rfl
  · exact h

theorem wroteSome_uartStep (i : Nat) (h : WroteSome s.params m0 r) : WroteSome s.params m0 (uartStep s i r) := by
  unfold uartStep
  split
  · exact h.congr rfl rfl
  · exact h.congr rfl rfl
  · unfold uartStop uartEmit
    simp only [raise_eq, ite_self]
    split
    · exact (h.emitEvent _).congr rfl rfl
    · exact h

/-- Every decoder writes RB by appends alone (R167). -/
theorem wroteSome_decoderOf (i : Instr) (h : WroteSome s.params m0 r) : WroteSome s.params m0 (decoderOf i s r) := by
  have hunknown : WroteSome s.params m0 (decodeUnknown s r) := h.append _
  cases i with
  | runGpio => exact ((wroteSome_gpioChannels 0 _ (h.append _)).append _).congr rfl rfl
  | runSpi =>
    have hinit : WroteSome s.params m0 (spiInit (append s.params headSpi r)) := (h.append _).congr rfl rfl
    exact (hinit.scan (fun i _ => wroteSome_spiStep i) _ _).append _
  | runI2c =>
    have hinit : WroteSome s.params m0 (i2cInit (append s.params headI2c r)) := (h.append _).congr rfl rfl
    exact (hinit.scan (fun i _ hr => wroteSome_i2cClock i (wroteSome_i2cConditions i hr)) _ _).append _
  | runUart =>
    have hinit : WroteSome s.params m0 (uartInit s (append s.params headUart r)) := (h.append _).congr rfl rfl
    exact (hinit.scan (fun i _ => wroteSome_uartStep i) _ _).append _
  | _ => exact hunknown

end Decoders

/-- The reserve of legal parameters is at least one byte and less than the Report Buffer (R5). -/
theorem reserve_bounds {p : Params} (h : p.wf = true) : 1 ≤ p.fmtReserve ∧ p.fmtReserve < p.reportCap := by
  obtain ⟨-, -, -, hreserve, hcap, -⟩ := params_wf_iff.1 h
  exact ⟨hreserve, hcap⟩

theorem reportInv_of_notReady {s : State} (h : s.rptValid = false) : ReportInv s := fun hready => by simp [h] at hready

/-- Every RUN ends its Report in the newline, inside RB (R264, R265). -/
theorem reportInv_afterRun {s : State} (hp : s.params.wf = true) (hrb : Memory.wf blankByte s.rb) (i : Instr) :
    ReportInv (afterRun (decoderOf i) s) := by
  intro _
  obtain ⟨hreserve, hcap⟩ := reserve_bounds hp
  obtain ⟨text, hw⟩ : WroteSome s.params s.rb (decoderOf i s (initRun (Run.ofState s))) :=
    wroteSome_decoderOf i (wroteSome_init (r := Run.ofState s) hrb)
  have hcur : (runResult (decoderOf i) s).work.fmt.cur =
      (decoderOf i s (initRun (Run.ofState s))).work.fmt.cur + 1 := rfl
  have hbound := hw.cur
  refine ⟨?_, ?_, ?_⟩
  · rw [afterRun_rptLen, hcur]
    omega
  · rw [afterRun_rptLen, afterRun_params, hcur]
    omega
  · rw [afterRun_rptLen, afterRun_rb, readCell_forgetFrom _ (by omega), hcur, Nat.add_sub_cancel]
    exact readCell_writeCell_same hw.wf _ _

/-- Settles O43: a ready Report is left alone by every turn but TAKE and RESET, which empty the slot, and RUN, which fills
it. -/
theorem stepKeepsReportInv : Obligations.StepKeepsReportInv := by
  intro s t hmem hs h
  cases stepCase_of_step h with
  | run => exact reportInv_afterRun (s := { s with agenda := s.agenda.tail }) hmem.legal hmem.rbWf _
  | take | reset => exact reportInv_of_notReady rfl
  | tick => simpa [ReportInv] using hs
  | hold | configure | start | wake => exact hs

/-! Reset (R50, R340) -/

/-- Settles O20: each register as `State.resetOf` gives it. -/
theorem resetControlValues : Obligations.ResetControlValues :=
  ⟨rfl, fun _ => ⟨rfl, rfl, rfl, rfl, rfl, rfl, rfl, rfl, rfl, rfl, rfl, rfl, rfl, rfl⟩⟩

theorem memory_wf_nil {α : Type} [DecidableEq α] (blank : α) : Memory.wf blank ([] : Memory α) :=
  ⟨List.Pairwise.nil, by simp⟩

/-- Settles O41: reset is quiet, no Report is ready, the configuration is that of R5 and no memory lists an element. -/
theorem resetMeetsInvariants : Obligations.ResetMeetsInvariants := by
  intro p hp
  have hsize := bufSize_eq hp
  have hptr : (State.resetOf p).wrPtr < p.bufSize := show 0 < p.bufSize by omega
  refine ⟨controlInv_of_quiet hp rfl rfl rfl rfl hptr ⟨rfl, rfl⟩, reportInv_of_notReady rfl,
    cfgInv_of_atReset hp rfl rfl, ?_⟩
  exact {
    legal := hp
    sbWf := memory_wf_nil _
    rbWf := memory_wf_nil _
    scrWf := memory_wf_nil _
    sbBound := by simp [State.resetOf]
    rbBound := by simp [State.resetOf]
    scrBound := by simp [State.resetOf]
    samplesFit := by simp [State.resetOf] }

end Sys2Proof.Proofs

/-!
PROOFS. The memories of the block (spec/20_memory.md): what every step keeps of SB, RB and SCR (R60), that no access
lies outside them (R71), and who may write the half under decode and the ready Report (R64, R65).
-/
namespace Sys2Proof.Proofs

open Sys2Proof.Machine Sys2Proof.Safety Sys2Proof.Laws

/-! Ownership (R64, R65): a memory changes only where its writer is free to write -/

/-- While half 0 awaits the dispatcher or is being decoded, the trigger writes half 1 (R145). -/
theorem half_le_wrPtr_of_due {s : State} (h : ControlInv s) (htrig : s.trigEn = true)
    (hdue : s.sigPending = true ∨ s.decBusy = true) : s.params.half ≤ s.wrPtr := by
  rcases controlInv_filling h htrig with ⟨-, -, hsig, hbusy⟩ | ⟨-, hsecond⟩
  · simp [hsig, hbusy] at hdue
  · exact hsecond

/-- Settles O47: an element of SB changes only at the write pointer (`sampleBufferChanges`), which has left half 0. -/
theorem halfUnderDecodeStable : Obligations.HalfUnderDecodeStable := by
  intro s t hctl hmem hdue h a ha
  by_contra hne
  obtain ⟨htrig, rfl, -⟩ := sampleBufferChanges s t a hmem h hne
  have hptr := half_le_wrPtr_of_due hctl htrig hdue
  omega

/-- Settles O48: RB changes only in a run in flight (`reportBufferChanges`), and none is while a Report is ready (R48
item 3). -/
theorem reportStableWhileReady : Obligations.ReportStableWhileReady := by
  intro s t hctl hready h
  by_contra hne
  obtain ⟨-, hbusy⟩ := reportBufferChanges s t h (.inl hne)
  obtain ⟨-, -, -, hempty⟩ := hctl.busyExclusive hbusy
  simp [hready] at hempty

/-! No step stops (R71, R300, R307) -/

/-- Every command word is accepted in every state (R120). -/
theorem command_accepted (w : Word32) (s : State) : ∃ t, command w s = .next t := by
  rcases command_cases w s with h | ⟨_, h, -⟩ | ⟨_, h⟩ | ⟨_, h, -⟩ | ⟨-, h⟩ <;> exact ⟨_, h⟩

/-- A TICK with the write pointer in range stores inside SB or does nothing (R142). -/
theorem tick_of_pointerInRange {s : State} (hptr : s.wrPtr < s.params.bufSize) (pins : Sample) :
    ∃ t, tick pins s = .next t := by
  cases htrig : s.trigEn with
  | true => exact ⟨advancePointer (storeSample pins s), by simp [tick, htrig, hptr]⟩
  | false => exact ⟨s, by simp [tick, htrig]⟩

/-- The RUN turn of a legal instance runs its decoder or holds (R162). -/
theorem runTurn_of_legal {s : State} (hp : s.params.wf = true) : ∃ t, runTurn s = .next t := by
  rw [runTurn_eq]
  cases hbusy : s.decBusy with
  | true => exact ⟨_, runWith_enabled hp hbusy⟩
  | false => exact ⟨s, rfl⟩

/-- Under the control invariants every turn of every agent has a next state. -/
theorem takeTurn_of_control {s : State} (h : ControlInv s) (u : Turn) : ∃ t, takeTurn u s = .next t := by
  cases u with
  | cmd w => exact command_accepted w s
  | take => exact ⟨_, rfl⟩
  | tick pins => exact tick_of_pointerInRange h.pointerInRange pins
  | wake => exact ⟨_, rfl⟩
  | run => exact runTurn_of_legal h.legal
  | reset => exact ⟨_, rfl⟩

/-- Settles O46: a step is the next turn of the agenda, or DISPATCH's when there is none. -/
theorem noStepStops : Obligations.NoStepStops := by
  intro s h
  cases hagenda : s.agenda with
  | nil =>
    rw [step_nil hagenda]
    split
    · exact runTurn_of_legal h.legal
    · exact ⟨_, rfl⟩
  | cons u rest =>
    rw [step_cons hagenda]
    exact takeTurn_of_control (controlInv_withAgenda h rest) u

/-! A memory in canonical form within its size (R60, R71), and the writes that keep it so -/

/-- The memory has its canonical form and lists only elements below `cap`. -/
structure FitsIn {α : Type} [DecidableEq α] (blank : α) (cap : Nat) (m : Memory α) : Prop where
  wf : Memory.wf blank m
  bound : ∀ c ∈ m, c.1 < cap

theorem FitsIn.writeCell {α : Type} [DecidableEq α] {blank : α} {cap : Nat} {m : Memory α} (h : FitsIn blank cap m)
    {a : Nat} (ha : a < cap) (v : α) : FitsIn blank cap (writeCell blank m a v) := by
  refine ⟨writeCell_wf h.wf a v, fun c hc => ?_⟩
  rcases mem_writeCell_fst hc with hc | ⟨rfl, -⟩
  · exact h.bound c hc
  · exact ha

section Bytes

variable {cap : Nat} {m : List Host.Cell}

/-- A bounded write stays inside the memory wherever its cursor is: at or above the threshold it writes nothing
(R261). -/
theorem FitsIn.boundedWrite (h : FitsIn blankByte cap m) (reserve k : Nat) (t : Text) :
    FitsIn blankByte cap (boundedWrite cap reserve m k t) := by
  refine ⟨boundedWrite_wf h.wf cap reserve k t, ?_⟩
  by_cases hk : k ≤ cap
  · exact boundedWrite_bound h.bound reserve k t hk
  · have hwidth : appendWidth cap reserve k t.length = 0 := by
      rw [appendWidth_eq]
      omega
    have hsame : Machine.boundedWrite cap reserve m k t = m := by
      rw [Machine.boundedWrite, hwidth]
      rfl
    rw [hsame]
    exact h.bound

theorem FitsIn.forgetFrom (h : FitsIn blankByte cap m) (free : Nat → Byte) (a : Nat) :
    FitsIn blankByte cap (forgetFrom free a cap m) :=
  ⟨forgetFrom_wf h.wf free a cap, forgetFrom_bound h.bound free a⟩

end Bytes

/-! RB after a run: appends below the threshold (`wroteSome_decoderOf`), and the newline in the reserve (R264) -/

theorem rbFitsIn_runResult {s : State} (hp : s.params.wf = true) (h : FitsIn blankByte s.params.reportCap s.rb)
    (i : Instr) : FitsIn blankByte s.params.reportCap (runResult (decoderOf i) s).rb := by
  obtain ⟨text, hw⟩ : WroteSome s.params s.rb (decoderOf i s (initRun (Run.ofState s))) :=
    wroteSome_decoderOf i (wroteSome_init (r := Run.ofState s) h.wf)
  obtain ⟨hreserve, hcap⟩ := reserve_bounds hp
  have hcur := hw.cur
  have htext : FitsIn blankByte s.params.reportCap (decoderOf i s (initRun (Run.ofState s))).rb :=
    ⟨hw.wf, hw.bound h.bound⟩
  exact htext.writeCell (by omega) newline

/-! SCR after a run: the GPIO detector writes it by scratch appends alone (R182), the other decoders not at all (R36) -/

@[simp] theorem appendComma_scr (p : Params) (r : Run) : (appendComma p r).scr = r.scr := by
  unfold appendComma
  split <;> simp

/-- A scan whose steps write no scratch writes none. -/
theorem scanHalf_scr {s : State} {f : Nat → Run → Run} (hstep : ∀ i r, (f i r).scr = r.scr) (r : Run) :
    (scanHalf s f r).scr = r.scr :=
  scan_induct (P := fun _ r' => r'.scr = r.scr) (fun _ _ _ h => h) rfl fun i r' _ _ h => (hstep i r').trans h

@[simp] theorem spiStep_scr (s : State) (i : Nat) (r : Run) : (spiStep s i r).scr = r.scr := by
  unfold spiStep spiClock spiEmit
  split
  · simp only
    split <;> simp
  · simp

@[simp] theorem i2cConditions_scr (s : State) (i : Nat) (r : Run) : (i2cConditions s i r).scr = r.scr := by
  unfold i2cConditions i2cEmit
  split
  · simp
  · split <;> simp

@[simp] theorem i2cClock_scr (s : State) (i : Nat) (r : Run) : (i2cClock s i r).scr = r.scr := by
  unfold i2cClock i2cDataBit i2cAckBit i2cEmit
  split
  · split
    · rfl
    · simp only
      split <;> simp
    · simp
  · rfl

@[simp] theorem uartStep_scr (s : State) (i : Nat) (r : Run) : (uartStep s i r).scr = r.scr := by
  unfold uartStep
  split
  · rfl
  · rfl
  · unfold uartStop uartEmit
    simp only [raise_eq, ite_self]
    split <;> simp

/-- Only RUN.GPIO writes the scratch (R36). -/
theorem decoderOf_scr {i : Instr} (hi : i ≠ .runGpio) (s : State) (r : Run) : (decoderOf i s r).scr = r.scr := by
  have hunknown : (decodeUnknown s r).scr = r.scr := append_scr _ _ _
  cases i with
  | runGpio => exact absurd rfl hi
  | runSpi => exact (append_scr _ _ _).trans ((scanHalf_scr (spiStep_scr s) _).trans (append_scr _ _ _))
  | runI2c =>
    have hstep : ∀ i r, (i2cStep s i r).scr = r.scr := fun i r => by simp [i2cStep]
    exact (append_scr _ _ _).trans ((scanHalf_scr hstep _).trans (append_scr _ _ _))
  | runUart => exact (append_scr _ _ _).trans ((scanHalf_scr (uartStep_scr s) _).trans (append_scr _ _ _))
  | _ => exact hunknown

/-- The scratch of a run has its canonical form and its size. -/
abbrev ScrFits (p : Params) (r : Run) : Prop := FitsIn blankByte p.scratchCap r.scr

section Scratch

variable {s : State} {r : Run}

theorem scrFits_scrAppend {p : Params} (h : ScrFits p r) (t : Text) : ScrFits p (scrAppend p t r) := by
  unfold ScrFits
  rw [scrAppend_scr]
  exact h.boundedWrite _ _ _

theorem scrFits_gpioInitialRecord (c : Nat) (h : ScrFits s.params r) : ScrFits s.params (gpioInitialRecord s c r) := by
  unfold gpioInitialRecord
  split
  · exact scrFits_scrAppend h _
  · exact h

theorem scrFits_gpioSeparator (h : ScrFits s.params r) : ScrFits s.params (gpioSeparator s r) := by
  unfold gpioSeparator
  split
  · exact scrFits_scrAppend h _
  · exact h

theorem scrFits_gpioStep (c i : Nat) (h : ScrFits s.params r) : ScrFits s.params (gpioStep s c i r) := by
  unfold gpioStep
  split
  · exact scrFits_scrAppend (scrFits_gpioSeparator h) _
  · exact h

/-- Merging a channel reads the scratch and writes RB (R185). -/
@[simp] theorem gpioMerge_scr (c : Nat) : (gpioMerge s c r).scr = r.scr := by
  unfold gpioMerge
  split <;> simp

theorem scrFits_gpioScan (c : Nat) (h : ScrFits s.params r) : ScrFits s.params (gpioScan s c r) := by
  unfold ScrFits gpioScan
  rw [gpioMerge_scr]
  have hstart : ScrFits s.params (gpioStart c r) := h
  exact scan_induct (P := fun _ r => ScrFits s.params r) (fun _ _ _ hr => hr) (scrFits_gpioInitialRecord c hstart)
    fun i _ _ _ hr => scrFits_gpioStep c i hr

theorem scrFits_gpioChannels (c n : Nat) (h : ScrFits s.params r) : ScrFits s.params (gpioChannels s c n r) := by
  induction n generalizing c r with
  | zero => exact h
  | succ n ih => exact ih (c + 1) (scrFits_gpioScan c h)

/-- Every decoder leaves the scratch in canonical form and within its size. -/
theorem scrFits_decoderOf (i : Instr) (h : ScrFits s.params r) : ScrFits s.params (decoderOf i s r) := by
  by_cases hi : i = .runGpio
  · subst hi
    have hhead : ScrFits s.params (append s.params headGpio r) := by simpa [ScrFits] using h
    have hchannels : ScrFits s.params (append s.params tailGpio (gpioChannels s 0 channelCount
        (append s.params headGpio r))) := by
      simpa [ScrFits] using scrFits_gpioChannels 0 channelCount hhead
    exact hchannels.forgetFrom _ _
  · unfold ScrFits
    rw [decoderOf_scr hi]
    exact h

end Scratch

/-! The memory invariant: TICK writes SB, RUN writes RB and SCR, no other turn writes a memory -/

/-- The invariant of a state by its three memories, one at a time. -/
theorem memoryInv_of_fitsIn {s : State} (hp : s.params.wf = true) (hsb : FitsIn blankSample s.params.bufSize s.sb)
    (hsamples : SamplesFit s) (hrb : FitsIn blankByte s.params.reportCap s.rb)
    (hscr : FitsIn blankByte s.params.scratchCap s.scr) : MemoryInv s :=
  ⟨hp, hsb.wf, hrb.wf, hscr.wf, hsb.bound, hrb.bound, hscr.bound, hsamples⟩

/-- The invariant speaks of the parameters and the three memories alone. -/
theorem memoryInv_congr {s t : State} (h : MemoryInv s) (hparams : t.params = s.params) (hsb : t.sb = s.sb)
    (hrb : t.rb = s.rb) (hscr : t.scr = s.scr) : MemoryInv t := by
  obtain ⟨hlegal, hsbWf, hrbWf, hscrWf, hsbBound, hrbBound, hscrBound, hsamples⟩ := h
  constructor <;> simpa only [SamplesFit, hparams, hsb, hrb, hscr]

/-- A Sample stored is cut to `SAMPLE_W` bits, so that every Sample keeps its width (R93, R142). -/
theorem samplesFit_storeSample {s : State} (h : SamplesFit s) (pins : Sample) : SamplesFit (storeSample pins s) := by
  intro c hc
  rcases mem_writeCell_fst hc with hc | ⟨rfl, -⟩
  · exact h c hc
  · exact Nat.mod_lt _ (Nat.two_pow_pos _)

/-- Storing a Sample inside SB keeps the memories (R142). -/
theorem memoryInv_storeSample {s : State} (h : MemoryInv s) (hptr : s.wrPtr < s.params.bufSize) (pins : Sample) :
    MemoryInv (storeSample pins s) :=
  memoryInv_of_fitsIn h.legal (FitsIn.writeCell ⟨h.sbWf, h.sbBound⟩ hptr _)
    (samplesFit_storeSample h.samplesFit pins) ⟨h.rbWf, h.rbBound⟩ ⟨h.scrWf, h.scrBound⟩

/-- A whole RUN keeps the memories; above the Report RB holds any bytes, within its size (R67). -/
theorem memoryInv_afterRun {s : State} (h : MemoryInv s) (i : Instr) : MemoryInv (afterRun (decoderOf i) s) := by
  have hrb := rbFitsIn_runResult h.legal ⟨h.rbWf, h.rbBound⟩ i
  have hscr : ScrFits s.params (decoderOf i s (initRun (Run.ofState s))) :=
    scrFits_decoderOf i ⟨h.scrWf, h.scrBound⟩
  exact memoryInv_of_fitsIn h.legal ⟨h.sbWf, h.sbBound⟩ h.samplesFit (hrb.forgetFrom _ _) hscr

/-- Settles O45: of the turns that have an effect, only TICK and RUN write a memory. -/
theorem stepKeepsMemoryInv : Obligations.StepKeepsMemoryInv := by
  intro s t hs h
  have hu : MemoryInv { s with agenda := s.agenda.tail } := { hs with }
  cases stepCase_of_step h with
  | tick pins hturn htrig hptr =>
    exact memoryInv_congr (memoryInv_storeSample hu hptr pins) (by simp) (by simp) (by simp) (by simp)
  | run => exact memoryInv_afterRun hu _
  | hold | configure | start | take | wake | reset => exact memoryInv_congr hs rfl rfl rfl rfl

end Sys2Proof.Proofs

/-!
PROOFS. The encodings of the block (spec/30_encoding.md): a command word is its three fields (R91, R94), the decoder and
the encoder undo one another (R100, R101), a word selects one row of R100's table, and the number format (R107).
-/
namespace Sys2Proof.Proofs

open Sys2Proof.Machine Sys2Proof.Laws

/-! A word is its fields (R91, R94) -/

@[simp] theorem commandWord_fields (w : Word32) : commandWord (fieldOp w) (fieldProto w) (fieldParam w) = w := by
  have hhigh : fieldOp w ++ fieldProto w = w.extractLsb' 24 8 :=
    BitVec.extractLsb'_append_extractLsb'_eq_extractLsb' rfl
  have hword : w.extractLsb' 24 8 ++ fieldParam w = w.extractLsb' 0 32 :=
    BitVec.extractLsb'_append_extractLsb'_eq_extractLsb' rfl
  calc commandWord (fieldOp w) (fieldProto w) (fieldParam w)
      = w.extractLsb' 24 8 ++ fieldParam w := congrArg (· ++ fieldParam w) hhigh
    _ = w := hword.trans BitVec.extractLsb'_eq_self

@[simp] theorem fieldMode_append (ignored : BitVec 22) (mode : BitVec 2) : fieldMode (ignored ++ mode) = mode :=
  BitVec.extractLsb'_append_eq_right

@[simp] theorem fieldModeRest_append (ignored : BitVec 22) (mode : BitVec 2) :
    fieldModeRest (ignored ++ mode) = ignored :=
  BitVec.extractLsb'_append_eq_left

@[simp] theorem modeRest_append_mode (param : BitVec 24) : fieldModeRest param ++ fieldMode param = param :=
  (BitVec.extractLsb'_append_extractLsb'_eq_extractLsb' rfl).trans BitVec.extractLsb'_eq_self

/-! `OP`, `PROTO` and a tag are read by the same ranges: 0, 1, 2, 3, 4 to 7 and 8 to 15 (R100, R101) -/

theorem nibble_cases (x : BitVec 4) :
    x = 0#4 ∨ x = 1#4 ∨ x = 2#4 ∨ x = 3#4 ∨ (4#4 ≤ x ∧ x ≤ 7#4) ∨ 8#4 ≤ x := by
  bv_omega

theorem ne_of_four_le {x : BitVec 4} (h : 4#4 ≤ x) : x ≠ 0#4 ∧ x ≠ 1#4 ∧ x ≠ 2#4 ∧ x ≠ 3#4 := by
  bv_omega

theorem four_le_of_eight_le {x : BitVec 4} (h : 8#4 ≤ x) : 4#4 ≤ x := by bv_omega

theorem not_le_seven_of_eight_le {x : BitVec 4} (h : 8#4 ≤ x) : ¬ x ≤ 7#4 := by bv_omega

/-! When an operation with a range of its own is well formed (R100, R101) -/

theorem wf_cfgUnkLow {proto : BitVec 4} {param : BitVec 24} :
    (Instr.cfgUnkLow proto param).wf = true ↔ 4#4 ≤ proto ∧ proto ≤ 7#4 := by
  simp [Instr.wf]

theorem wf_cfgUnkHigh {proto : BitVec 4} {param : BitVec 24} :
    (Instr.cfgUnkHigh proto param).wf = true ↔ 8#4 ≤ proto := by
  simp [Instr.wf]

theorem wf_rsvdOp4to7 {op proto : BitVec 4} {param : BitVec 24} :
    (Instr.rsvdOp4to7 op proto param).wf = true ↔ 4#4 ≤ op ∧ op ≤ 7#4 := by
  simp [Instr.wf]

theorem wf_rsvdOp8to15 {op proto : BitVec 4} {param : BitVec 24} :
    (Instr.rsvdOp8to15 op proto param).wf = true ↔ 8#4 ≤ op := by
  simp [Instr.wf]

theorem wf_runUnkLow {tag : Tag} : (Instr.runUnkLow tag).wf = true ↔ 4#4 ≤ tag ∧ tag ≤ 7#4 := by
  simp [Instr.wf]

theorem wf_runUnkHigh {tag : Tag} : (Instr.runUnkHigh tag).wf = true ↔ 8#4 ≤ tag := by
  simp [Instr.wf]

/-! The decoder, one equation for each range it tests (R100, R101) -/

theorem decodeTag_of_low {t : Tag} (hlo : 4#4 ≤ t) (hhi : t ≤ 7#4) : decodeTag t = .runUnkLow t := by
  simp [decodeTag, ne_of_four_le hlo, hhi]

theorem decodeTag_of_high {t : Tag} (h : 8#4 ≤ t) : decodeTag t = .runUnkHigh t := by
  simp [decodeTag, ne_of_four_le (four_le_of_eight_le h), not_le_seven_of_eight_le h]

theorem decodeConfigure_of_low {proto : BitVec 4} (hlo : 4#4 ≤ proto) (hhi : proto ≤ 7#4) (param : BitVec 24) :
    decodeConfigure proto param = .cfgUnkLow proto param := by
  simp [decodeConfigure, ne_of_four_le hlo, hhi]

theorem decodeConfigure_of_high {proto : BitVec 4} (h : 8#4 ≤ proto) (param : BitVec 24) :
    decodeConfigure proto param = .cfgUnkHigh proto param := by
  simp [decodeConfigure, ne_of_four_le (four_le_of_eight_le h), not_le_seven_of_eight_le h]

theorem decode_of_fieldOp_zero {w : Word32} (h : fieldOp w = 0#4) :
    decode (.cmd32 w) = .rsvdOp0 (fieldProto w) (fieldParam w) := by
  simp [decode, decodeCmd, h]

theorem decode_of_fieldOp_three {w : Word32} (h : fieldOp w = 3#4) :
    decode (.cmd32 w) = .rsvdOp3 (fieldProto w) (fieldParam w) := by
  simp [decode, decodeCmd, h]

theorem decode_of_fieldOp_low {w : Word32} (hlo : 4#4 ≤ fieldOp w) (hhi : fieldOp w ≤ 7#4) :
    decode (.cmd32 w) = .rsvdOp4to7 (fieldOp w) (fieldProto w) (fieldParam w) := by
  simp [decode, decodeCmd, ne_of_four_le hlo, hhi]

theorem decode_of_fieldOp_high {w : Word32} (h : 8#4 ≤ fieldOp w) :
    decode (.cmd32 w) = .rsvdOp8to15 (fieldOp w) (fieldProto w) (fieldParam w) := by
  simp [decode, decodeCmd, ne_of_four_le (four_le_of_eight_le h), not_le_seven_of_eight_le h]

/-! From an instruction to its encoding and back -/

/-- A configure word is decoded by its `PROTO` and `PARAM` (R100 (3)). -/
theorem decode_commandWord_configure (proto : BitVec 4) (param : BitVec 24) :
    decode (.cmd32 (commandWord 1#4 proto param)) = decodeConfigure proto param := by
  rw [decode_of_fieldOp_configure (by simp), fieldProto_commandWord, fieldParam_commandWord]

/-- Settles O1, operation by operation: the fixed bits of the encoding choose the decoder's branch, and the fields read
back are those put in. -/
theorem decodeOfEncode : Obligations.DecodeOfEncode := by
  intro i hwf
  cases i with
  | cfgGpio param => exact decode_commandWord_configure 0#4 param
  | cfgSpi ignored mode =>
    calc decode (encode (.cfgSpi ignored mode))
        = decodeConfigure 1#4 (ignored ++ mode) := decode_commandWord_configure 1#4 (ignored ++ mode)
      _ = .cfgSpi ignored mode := by simp [decodeConfigure]
  | cfgI2c param => exact decode_commandWord_configure 2#4 param
  | cfgUart baud => exact decode_commandWord_configure 3#4 baud
  | cfgUnkLow proto param =>
    obtain ⟨hlo, hhi⟩ := wf_cfgUnkLow.mp hwf
    exact (decode_commandWord_configure proto param).trans (decodeConfigure_of_low hlo hhi param)
  | cfgUnkHigh proto param =>
    have hhigh := wf_cfgUnkHigh.mp hwf
    exact (decode_commandWord_configure proto param).trans (decodeConfigure_of_high hhigh param)
  | start proto param => simp [encode, decode_of_fieldOp_start]
  | rsvdOp0 proto param => simp [encode, decode_of_fieldOp_zero]
  | rsvdOp3 proto param => simp [encode, decode_of_fieldOp_three]
  | rsvdOp4to7 op proto param =>
    obtain ⟨hlo, hhi⟩ := wf_rsvdOp4to7.mp hwf
    simp [encode, decode_of_fieldOp_low, hlo, hhi]
  | rsvdOp8to15 op proto param =>
    have hhigh := wf_rsvdOp8to15.mp hwf
    simp [encode, decode_of_fieldOp_high, hhigh]
  | runGpio => rfl
  | runSpi => rfl
  | runI2c => rfl
  | runUart => rfl
  | runUnkLow tag =>
    obtain ⟨hlo, hhi⟩ := wf_runUnkLow.mp hwf
    exact decodeTag_of_low hlo hhi
  | runUnkHigh tag => exact decodeTag_of_high (wf_runUnkHigh.mp hwf)

/-! From a word or a tag to its instruction and back -/

/-- The instruction is well formed and encoded by `f`. -/
def EncodedBy (f : Fetched) (i : Instr) : Prop := encode i = f ∧ i.wf = true

theorem encodedBy_decodeTag (t : Tag) : EncodedBy (.tag4 t) (decodeTag t) := by
  rcases nibble_cases t with rfl | rfl | rfl | rfl | ⟨hlo, hhi⟩ | h
  · exact ⟨rfl, rfl⟩
  · exact ⟨rfl, rfl⟩
  · exact ⟨rfl, rfl⟩
  · exact ⟨rfl, rfl⟩
  · rw [decodeTag_of_low hlo hhi]
    exact ⟨rfl, wf_runUnkLow.mpr ⟨hlo, hhi⟩⟩
  · rw [decodeTag_of_high h]
    exact ⟨rfl, wf_runUnkHigh.mpr h⟩

theorem encodedBy_decodeConfigure (proto : BitVec 4) (param : BitVec 24) :
    EncodedBy (.cmd32 (commandWord 1#4 proto param)) (decodeConfigure proto param) := by
  rcases nibble_cases proto with rfl | rfl | rfl | rfl | ⟨hlo, hhi⟩ | h
  · exact ⟨rfl, rfl⟩
  · exact ⟨by simp [decodeConfigure, encode], rfl⟩
  · exact ⟨rfl, rfl⟩
  · exact ⟨rfl, rfl⟩
  · rw [decodeConfigure_of_low hlo hhi]
    exact ⟨rfl, wf_cfgUnkLow.mpr ⟨hlo, hhi⟩⟩
  · rw [decodeConfigure_of_high h]
    exact ⟨rfl, wf_cfgUnkHigh.mpr h⟩

theorem encodedBy_decode_cmd32 (w : Word32) : EncodedBy (.cmd32 w) (decode (.cmd32 w)) := by
  have hword : commandWord (fieldOp w) (fieldProto w) (fieldParam w) = w := commandWord_fields w
  rcases nibble_cases (fieldOp w) with hop | hop | hop | hop | ⟨hlo, hhi⟩ | hhigh
  · rw [decode_of_fieldOp_zero hop]
    exact ⟨by simpa [encode, hop] using hword, rfl⟩
  · rw [decode_of_fieldOp_configure hop]
    have hconfigure := encodedBy_decodeConfigure (fieldProto w) (fieldParam w)
    rwa [← hop, hword] at hconfigure
  · rw [decode_of_fieldOp_start hop]
    exact ⟨by simpa [encode, hop] using hword, rfl⟩
  · rw [decode_of_fieldOp_three hop]
    exact ⟨by simpa [encode, hop] using hword, rfl⟩
  · rw [decode_of_fieldOp_low hlo hhi]
    exact ⟨congrArg Fetched.cmd32 hword, wf_rsvdOp4to7.mpr ⟨hlo, hhi⟩⟩
  · rw [decode_of_fieldOp_high hhigh]
    exact ⟨congrArg Fetched.cmd32 hword, wf_rsvdOp8to15.mpr hhigh⟩

/-- Settles O2: a word by its `OP`, a configure word by its `PROTO`, a tag by its value. -/
theorem encodeOfDecode : Obligations.EncodeOfDecode
  | .cmd32 w => encodedBy_decode_cmd32 w
  | .tag4 t => encodedBy_decodeTag t

/-! The rows of R100's table -/

/-- A well-formed instruction's encoding is one its own row or tag pattern selects (R100, R101). -/
theorem encodesItsRow (i : Instr) : EncodesItsRow.Statement i := by
  cases i with
  | cfgGpio param => exact EncodesItsRow.cfgGpio param
  | cfgSpi ignored mode => exact EncodesItsRow.cfgSpi ignored mode
  | cfgI2c param => exact EncodesItsRow.cfgI2c param
  | cfgUart baud => exact EncodesItsRow.cfgUart baud
  | cfgUnkLow proto param => exact EncodesItsRow.cfgUnkLow proto param
  | cfgUnkHigh proto param => exact EncodesItsRow.cfgUnkHigh proto param
  | start proto param => exact EncodesItsRow.start proto param
  | rsvdOp0 proto param => exact EncodesItsRow.rsvdOp0 proto param
  | rsvdOp3 proto param => exact EncodesItsRow.rsvdOp3 proto param
  | rsvdOp4to7 op proto param => exact EncodesItsRow.rsvdOp4to7 op proto param
  | rsvdOp8to15 op proto param => exact EncodesItsRow.rsvdOp8to15 op proto param
  | runGpio => exact EncodesItsRow.runGpio
  | runSpi => exact EncodesItsRow.runSpi
  | runI2c => exact EncodesItsRow.runI2c
  | runUart => exact EncodesItsRow.runUart
  | runUnkLow tag => exact EncodesItsRow.runUnkLow tag
  | runUnkHigh tag => exact EncodesItsRow.runUnkHigh tag

/-- A word selects the row of the instruction it decodes to (R100). -/
theorem selectsRow_decode (w : Word32) : ∃ k, (decode (.cmd32 w)).cmdRow = some k ∧ selectsRow k w := by
  obtain ⟨hencode, hwf⟩ := encodedBy_decode_cmd32 w
  have hrow := encodesItsRow (decode (.cmd32 w)) hwf
  rwa [hencode] at hrow

/-- Two rows ask for the same value of every bit that both test. -/
def RowsAgree (row other : CmdRow) : Prop := row.pattern &&& other.mask = other.pattern &&& row.mask

/-- A word that selects two rows has the value both ask for in the bits both test. -/
theorem rowsAgree_of_selects {row other : CmdRow} {w : Word32} (hrow : row.selects w = true)
    (hother : other.selects w = true) : RowsAgree row other := by
  simp only [CmdRow.selects, beq_iff_eq] at hrow hother
  calc row.pattern &&& other.mask
      = w &&& row.mask &&& other.mask := by rw [hrow]
    _ = w &&& other.mask &&& row.mask := by ac_rfl
    _ = other.pattern &&& row.mask := by rw [hother]

/-- Any two of the eleven rows test a bit for which they ask different values (R100). -/
theorem eq_of_rowsAgree (j k : Fin cmdTable.length) (h : RowsAgree cmdTable[j] cmdTable[k]) : j = k := by
  unfold RowsAgree at h
  revert j k
  decide

/-- The rows are disjoint (R100). -/
theorem selectsRow_unique {j k : Nat} {w : Word32} (hj : selectsRow j w) (hk : selectsRow k w) : j = k := by
  obtain ⟨row, hrow, hsel⟩ := hj
  obtain ⟨other, hother, hsel'⟩ := hk
  obtain ⟨hjlt, rfl⟩ := List.getElem?_eq_some_iff.mp hrow
  obtain ⟨hklt, rfl⟩ := List.getElem?_eq_some_iff.mp hother
  exact congrArg Fin.val (eq_of_rowsAgree ⟨j, hjlt⟩ ⟨k, hklt⟩ (rowsAgree_of_selects hsel hsel'))

/-- Settles O3: the row of a word's instruction selects the word, and no word selects two rows. -/
theorem commandRowsPartition : Obligations.CommandRowsPartition := by
  intro w
  obtain ⟨k, hk, row, hrow, hsel⟩ := selectsRow_decode w
  refine ⟨k, row, hk, hrow, hsel, fun j other hother hsel' => ?_⟩
  exact selectsRow_unique ⟨other, hother, hsel'⟩ ⟨row, hrow, hsel⟩

/-! The number format (R107) -/

/-- Fuel above the number is fuel enough. -/
theorem decFuel_eq_of_lt {f g n : Nat} (hf : n < f) (hg : n < g) : decFuel f n = decFuel g n := by
  induction f generalizing g n with
  | zero => omega
  | succ f ih =>
    obtain _ | g := g
    · omega
    unfold decFuel
    split
    · rfl
    · rw [ih (g := g) (by omega) (by omega)]

theorem dec_of_lt {n : Nat} (h : n < 10) : dec n = [digit n] := by
  simp [dec, decFuel, h]

theorem dec_of_le {n : Nat} (h : 10 ≤ n) : dec n = dec (n / 10) ++ dec (n % 10) := by
  have hlast : dec (n % 10) = [digit (n % 10)] := dec_of_lt (Nat.mod_lt n (by decide))
  have hfuel : decFuel n (n / 10) = dec (n / 10) := decFuel_eq_of_lt (by omega) (by omega)
  calc dec n
      = decFuel n (n / 10) ++ [digit (n % 10)] := by simp [dec, decFuel, Nat.not_lt.mpr h]
    _ = dec (n / 10) ++ dec (n % 10) := by rw [hfuel, hlast]

/-- Settles O22: one digit below 10, and above it the recursion, whose fuel suffices. -/
theorem decimalSpelling : Obligations.DecimalSpelling := by
  intro n
  split
  · exact dec_of_lt ‹_›
  · exact dec_of_le (Nat.not_lt.mp ‹_›)

/-! Patterns and words written out: each is the encoding of its operation (R91, R94, R95, R100, R101) -/

theorem decode_eq_of_encode_eq {i : Instr} {f : Fetched} (hencode : encode i = f) (hwf : i.wf = true) : decode f = i :=
  hencode ▸ decodeOfEncode i hwf

theorem wf_runUnkLow_pattern (t : BitVec 2) : (Instr.runUnkLow (0b01#2 ++ t)).wf = true := by
  revert t; decide

theorem wf_runUnkHigh_pattern (t : BitVec 3) : (Instr.runUnkHigh (0b1#1 ++ t)).wf = true := by
  revert t; decide

/-- Settles O4: a tag encodes itself, and a pattern's free bits leave its tag in the row's range. -/
theorem tagPatternsDecode : Obligations.TagPatternsDecode :=
  ⟨decode_eq_of_encode_eq rfl rfl, decode_eq_of_encode_eq rfl rfl, decode_eq_of_encode_eq rfl rfl,
    decode_eq_of_encode_eq rfl rfl, fun t => decode_eq_of_encode_eq rfl (wf_runUnkLow_pattern t),
    fun t => decode_eq_of_encode_eq rfl (wf_runUnkHigh_pattern t)⟩

/-- Settles O5: each word is the concatenation of its operation's fields. -/
theorem writtenWordsDecode : Obligations.WrittenWordsDecode :=
  ⟨decode_eq_of_encode_eq rfl rfl, decode_eq_of_encode_eq rfl rfl, decode_eq_of_encode_eq rfl rfl,
    decode_eq_of_encode_eq rfl rfl, decode_eq_of_encode_eq rfl rfl, decode_eq_of_encode_eq rfl rfl,
    decode_eq_of_encode_eq rfl rfl⟩

end Sys2Proof.Proofs

/-!
PROOFS. What a turn runs (spec/41_arbiter.md R140, spec/42_dispatcher.md R162), what the host places for the next step, and
the effect of each host command (spec/40_commands.md R121 to R128).
-/
namespace Sys2Proof.Proofs

open Sys2Proof.Machine Sys2Proof.Laws

/-! The step, by the turn it takes (R120, R140, R162) -/

theorem runTurn_of_busy {s : State} (hbusy : s.decBusy = true) : runTurn s = exec (decode (.tag4 s.snap.proto)) s :=
  if_pos hbusy

theorem step_cmd_cons {s : State} {w : Word32} {rest : List Turn} (h : s.agenda = .cmd w :: rest) :
    step s = exec (decode (.cmd32 w)) { s with agenda := rest } :=
  step_cons h

theorem step_run_cons {s : State} {rest : List Turn} (h : s.agenda = .run :: rest) (hbusy : s.decBusy = true) :
    step s = exec (decode (.tag4 s.snap.proto)) { s with agenda := rest } :=
  calc step s
      = runTurn { s with agenda := rest } := step_cons h
    _ = exec (decode (.tag4 s.snap.proto)) { s with agenda := rest } := runTurn_of_busy hbusy

theorem step_nil_of_busy {s : State} (h : s.agenda = []) (hbusy : s.decBusy = true) :
    step s = exec (decode (.tag4 s.snap.proto)) s :=
  calc step s
      = runTurn s := (step_nil h).trans (if_pos hbusy)
    _ = exec (decode (.tag4 s.snap.proto)) s := runTurn_of_busy hbusy

/-- Settles O6, one equation for each kind of turn. -/
theorem stepRunsDecoded : Obligations.StepRunsDecoded :=
  ⟨fun _ _ _ h => step_cmd_cons h, fun _ _ h hbusy => step_run_cons h hbusy, fun _ h hbusy => step_nil_of_busy h hbusy,
    fun _ _ _ h => step_cons h⟩

/-! The operation the host places (log entry 5): one that fits its format becomes the next turn -/

theorem fetchedOf_word {w : Nat} (h : w < 2 ^ 32) : fetchedOf 32 w = .ok (.cmd32 (BitVec.ofNat 32 w)) := by
  rw [fetchedOf, if_pos rfl, if_pos h]

theorem fetchedOf_tag {t : Nat} (h : t < 2 ^ 4) : fetchedOf 8 t = .ok (.tag4 (BitVec.ofNat 4 t)) := by
  rw [fetchedOf, if_neg (by decide), if_pos (.inl rfl), if_pos h]

theorem withFetchWord_of_fetchedOf {nbits w : Nat} {f : Fetched} (h : fetchedOf nbits w = .ok f) (s : State) :
    s.withFetchWord nbits w = placeFetched f s := by
  simp only [State.withFetchWord, placeRaw, h]

theorem step_placeFetched_cmd32 (w : Word32) (s : State) :
    step (placeFetched (.cmd32 w) s) = exec (decode (.cmd32 w)) s :=
  step_cmd_cons rfl

theorem step_placeFetched_tag4 (t : Tag) (s : State) :
    step (placeFetched (.tag4 t) s) =
      exec (decode (.tag4 t)) { s with decBusy := true, snap := { s.snap with proto := t } } :=
  step_run_cons rfl rfl

/-- Settles O7: what is placed is the head of the agenda, and taking it gives the agenda back. -/
theorem placedOperationRunsNext : Obligations.PlacedOperationRunsNext := by
  refine ⟨fun s w hw => ?_, fun s t ht => ?_⟩
  · rw [withFetchWord_of_fetchedOf (fetchedOf_word hw)]
    exact step_placeFetched_cmd32 _ s
  · rw [withFetchWord_of_fetchedOf (fetchedOf_tag ht)]
    exact step_placeFetched_tag4 _ s

/-! The configure commands (R121 to R125) -/

/-- Settles O9: `setProto` writes one field of `cfg`. -/
theorem cfgGpioSelectsGpio : Obligations.CfgGpioSelectsGpio :=
  fun _ _ => rfl

/-- Settles O10: `setSpiMode` after `setProto` writes two fields of `cfg`; the ignored bits are not read. -/
theorem cfgSpiStoresMode : Obligations.CfgSpiStoresMode :=
  fun _ _ _ => rfl

/-- Settles O11: `setProto` writes one field of `cfg`. -/
theorem cfgI2cSelectsI2c : Obligations.CfgI2cSelectsI2c :=
  fun _ _ => rfl

theorem exec_cfgUart_zero (s : State) : exec (.cfgUart 0#24) s = .next (setProto 3#4 s) := rfl

theorem exec_cfgUart_of_ne {baud : BitVec 24} (h : baud ≠ 0#24) (s : State) :
    exec (.cfgUart baud) s = .next (setUartBaud baud (setProto 3#4 s)) :=
  congrArg Host.Outcome.next (if_neg h)

/-- Settles O12, by whether the baud is 0. -/
theorem cfgUartStoresBaud : Obligations.CfgUartStoresBaud :=
  ⟨fun _ s hbaud => exec_cfgUart_of_ne hbaud s, exec_cfgUart_zero⟩

/-- Settles O13: `ConfigUnknownProtocol` is raised, and `raise` keeps the state (`raise_eq`). -/
theorem cfgUnkChangesNothing : Obligations.CfgUnkChangesNothing :=
  fun _ _ _ => ⟨rfl, rfl⟩

/-! START (R126), the reserved words (R127) and TAKE (R128) -/

theorem exec_start_of_idle {s : State} (h : s.astate = .idle) (proto : BitVec 4) (param : BitVec 24) :
    exec (.start proto param) s = .next { arm s with astate := .capturing } := by
  simp only [exec, execStart, h]

theorem exec_start_of_capturing {s : State} (h : s.astate = .capturing) (proto : BitVec 4) (param : BitVec 24) :
    exec (.start proto param) s = .next s := by
  simp only [exec, execStart, h, raise_eq]

/-- Settles O14, by the mode; what START arms is ARM's effect (R141). -/
theorem startArmsWhenIdle : Obligations.StartArmsWhenIdle :=
  ⟨fun proto param _ hidle => exec_start_of_idle hidle proto param,
    fun proto param _ hcapt => exec_start_of_capturing hcapt proto param⟩

/-- Settles O15: each row raises `ReservedCommand`, and `raise` keeps the state (`raise_eq`). -/
theorem rsvdChangesNothing : Obligations.RsvdChangesNothing :=
  fun _ _ _ _ => ⟨rfl, rfl, rfl, rfl⟩

/-- Settles O16: the turn is `takeReport`, which writes `rptValid` alone. -/
theorem takeEmptiesSlot : Obligations.TakeEmptiesSlot :=
  fun _ _ h => step_cons h

end Sys2Proof.Proofs

/-!
PROOFS. The capture side of the arbiter (spec/41_arbiter.md): NOTIFY (R143) and TICK (R142), one equation for each case.
-/
namespace Sys2Proof.Proofs

open Sys2Proof.Machine Sys2Proof.Safety Sys2Proof.Laws

/-! NOTIFY (R143) -/

theorem notify_of_unserved {s : State} (hnote : s.noteEn = true) (hserved : s.served = false) (h : Half) :
    notify h s = postSignal h s := by
  simp [notify, hnote, hserved]

theorem notify_of_dropped {s : State} (hdrop : s.noteEn = false ∨ s.served = true) (h : Half) : notify h s = s := by
  rcases hdrop with hoff | hserved
  · simp [notify, hoff]
  · simp [notify, hserved]

/-- Settles O17: the first notification is `postSignal`, which writes the signal and `served`. -/
theorem notifyPostsOnce : Obligations.NotifyPostsOnce :=
  ⟨fun h _ hnote hserved => notify_of_unserved hnote hserved h, fun h _ hdrop => notify_of_dropped hdrop h⟩

/-! TICK (R142), by the trigger and by where the pointer stands -/

theorem tick_of_triggerOff {s : State} (htrig : s.trigEn = false) (pins : Sample) : tick pins s = .next s := by
  simp [tick, htrig]

theorem tick_of_triggerOn {s : State} (htrig : s.trigEn = true) (hptr : s.wrPtr < s.params.bufSize) (pins : Sample) :
    tick pins s = .next (advancePointer (storeSample pins s)) := by
  simp [tick, htrig, hptr]

theorem advancePointer_at_half {s : State} (hend : s.wrPtr + 1 = s.params.half) :
    advancePointer s = notify .first { s with wrPtr := s.params.half } :=
  if_pos hend

/-- The end of the buffer is not the end of half 0. -/
theorem advancePointer_at_wrap {s : State} (hp : s.params.wf = true) (hwrap : s.wrPtr + 1 = s.params.bufSize) :
    advancePointer s = { notify .second { s with wrPtr := 0 } with trigEn := false } := by
  obtain ⟨hsize, hhalf⟩ := bufSize_eq hp
  rw [advancePointer, if_neg (by omega), if_pos hwrap]

theorem advancePointer_inside {s : State} (hend : s.wrPtr + 1 ≠ s.params.half)
    (hwrap : s.wrPtr + 1 ≠ s.params.bufSize) : advancePointer s = { s with wrPtr := s.wrPtr + 1 } := by
  rw [advancePointer, if_neg hend, if_neg hwrap]

/-- Settles O18: the Sample is stored at the pointer, then the pointer makes one of its three moves, which write no
Sample. -/
theorem tickStoresAndAdvances : Obligations.TickStoresAndAdvances := by
  refine ⟨fun s pins htrig => tick_of_triggerOff htrig pins, fun s pins hmem hpins htrig hptr =>
    ⟨advancePointer (storeSample pins s), tick_of_triggerOn htrig hptr pins, ?_, ?_, ?_, ?_⟩⟩
  · intro a
    rw [show (advancePointer (storeSample pins s)).sb = (storeSample pins s).sb by simp, storeSample_sb,
      Nat.mod_eq_of_lt hpins, readCell_writeCell hmem.sbWf.1]
  · intro hend
    rw [advancePointer_at_half (s := storeSample pins s) hend, notify_sb]
    rfl
  · intro hwrap
    rw [advancePointer_at_wrap (s := storeSample pins s) hmem.legal hwrap, notify_sb]
    rfl
  · intro hend hwrap
    rw [advancePointer_inside (s := storeSample pins s) hend hwrap]
    rfl

end Sys2Proof.Proofs

/-!
PROOFS. What a run writes (spec/47_formatter.md): from a text to the Report (R262, R264), from the events emitted to the
text, and from the bits collected to a byte (R171).
-/
namespace Sys2Proof.Proofs

open Sys2Proof.Machine Sys2Proof.Safety Sys2Proof.Laws

/-! From the text a decoder writes to the Report (R264) -/

theorem reportBytes_of_wrote {d : State → Run → Run} {s : State} {m0 : List Host.Cell} {text : Text}
    (h : Wrote s.params m0 (d s (initRun (Run.ofState s))) text) :
    reportBytes (afterRun d s) = reportOf s.params text := by
  obtain ⟨hbytes, -⟩ := h.finish
  rw [reportBytes_afterRun]
  exact hbytes

section Events

variable {p : Params} {m0 : List Host.Cell} {head : Text} {r r' : Run} {evs : List Text}

/-- A text written after INIT opens the list of events (R185, R205, R228, R246). -/
theorem emitted_head (h : Memory.wf blankByte r.rb) (head : Text) :
    Emitted p r.rb head (append p head (initRun r)) [] :=
  ⟨by simpa [joinComma] using (wrote_init (p := p) h).append head, by simp⟩

/-- What writes neither RB nor the formatter's registers keeps the events emitted. -/
theorem emitted_congr (h : Emitted p m0 head r evs) (hrb : r'.rb = r.rb) (hfmt : r'.work.fmt = r.work.fmt) :
    Emitted p m0 head r' evs := by
  obtain ⟨hwrote, hfirst⟩ := h
  exact ⟨hwrote.congr hrb (by rw [hfmt]), by rw [hfmt, hfirst]⟩

/-- The comma before an entry leaves a text to which the entry alone is to be added (R185). -/
theorem exists_wrote_appendComma (h : Emitted p m0 head r evs) :
    ∃ before, Wrote p m0 (appendComma p r) before ∧
      ∀ entry, before ++ entry = head ++ joinComma (evs ++ [entry]) := by
  obtain ⟨hwrote, hfirst⟩ := h
  unfold appendComma
  cases evs with
  | nil => exact ⟨head, by simpa [hfirst, joinComma] using hwrote, fun entry => rfl⟩
  | cons e es =>
    refine ⟨_, by simpa [hfirst] using hwrote.append comma, fun entry => ?_⟩
    rw [joinComma_concat, if_neg (List.cons_ne_nil _ _)]
    simp only [List.append_assoc]

end Events

/-! Bits shifted in, most significant first (R171 (a)) -/

theorem msbFirst_concat (bits : List Bool) (b : Bool) : msbFirst (bits ++ [b]) = 2 * msbFirst bits + b.toNat := by
  simp [msbFirst]

theorem msbFirst_lt (bits : List Bool) : msbFirst bits < 2 ^ bits.length := by
  induction bits using List.reverseRecOn with
  | nil => simp [msbFirst]
  | append_singleton bits b ih =>
    have hb := Bool.toNat_le b
    rw [msbFirst_concat, List.length_append, List.length_singleton, Nat.pow_succ]
    omega

theorem two_pow_le_of_short {k : Nat} (h : k < 8) : 2 ^ k ≤ 128 :=
  Nat.pow_le_pow_right (n := 2) (by decide) (Nat.le_of_lt_succ h)

theorem toNat_ofNat_bitNat (b : Bool) : (BitVec.ofNat 8 (bitNat b)).toNat = b.toNat := by
  cases b <;> rfl

/-- Shifting a bit in adds it to the bits collected, while there are fewer than eight. -/
theorem toNat_shiftIn {acc : Byte} {bits : List Bool} (hacc : acc.toNat = msbFirst bits) (hshort : bits.length < 8)
    (b : Bool) : (shiftIn acc b).toNat = msbFirst (bits ++ [b]) := by
  have hlt : acc.toNat < 128 := hacc ▸ (msbFirst_lt bits).trans_le (two_pow_le_of_short hshort)
  have hshift : (acc <<< 1).toNat = 2 ^ 1 * acc.toNat := by
    rw [BitVec.toNat_shiftLeft, Nat.shiftLeft_eq]
    omega
  calc (shiftIn acc b).toNat
      = 2 ^ 1 * acc.toNat ||| b.toNat := by rw [shiftIn, BitVec.toNat_or, hshift, toNat_ofNat_bitNat]
    _ = 2 ^ 1 * acc.toNat + b.toNat := (Nat.two_pow_add_eq_or_of_lt (Bool.toNat_lt b) _).symm
    _ = msbFirst (bits ++ [b]) := by rw [msbFirst_concat, hacc, Nat.pow_one]

/-! Bits inserted, least significant first (R171 (b)) -/

theorem lsbFirst_concat (bits : List Bool) (b : Bool) :
    lsbFirst (bits ++ [b]) = 2 ^ bits.length * b.toNat + lsbFirst bits := by
  induction bits with
  | nil => simp [lsbFirst]
  | cons c bits ih =>
    rw [List.cons_append, lsbFirst, lsbFirst, ih, List.length_cons, Nat.pow_succ]
    ring

theorem lsbFirst_lt (bits : List Bool) : lsbFirst bits < 2 ^ bits.length := by
  induction bits with
  | nil => simp [lsbFirst]
  | cons c bits ih =>
    have hc := Bool.toNat_le c
    rw [lsbFirst, List.length_cons, Nat.pow_succ]
    omega

/-- Inserting the next bit adds it to the bits collected, while there are fewer than eight. -/
theorem toNat_insertBit {acc : Byte} {bits : List Bool} (hacc : acc.toNat = lsbFirst bits) (hshort : bits.length < 8)
    (b : Bool) : (insertBit acc b bits.length).toNat = lsbFirst (bits ++ [b]) := by
  have hplace : (BitVec.ofNat 8 (bitNat b) <<< bits.length).toNat = 2 ^ bits.length * b.toNat := by
    have hle := two_pow_le_of_short hshort
    rw [BitVec.toNat_shiftLeft, toNat_ofNat_bitNat, Nat.shiftLeft_eq, Nat.mul_comm]
    refine Nat.mod_eq_of_lt ?_
    cases b
    · simp
    · simpa using by omega
  calc (insertBit acc b bits.length).toNat
      = 2 ^ bits.length * b.toNat ||| lsbFirst bits := by
        rw [insertBit, BitVec.toNat_or, hplace, hacc, Nat.or_comm]
    _ = 2 ^ bits.length * b.toNat + lsbFirst bits := (Nat.two_pow_add_eq_or_of_lt (lsbFirst_lt bits) _).symm
    _ = lsbFirst (bits ++ [b]) := (lsbFirst_concat bits b).symm

end Sys2Proof.Proofs

/-!
PROOFS. RUN.SPI (spec/44_spi.md): the decoder's registers hold the bits of the unfinished byte (R201 to R205), so that a
scan emits the events of the closed form (R208).
-/
namespace Sys2Proof.Proofs

open Sys2Proof.Machine Sys2Proof.Safety Sys2Proof.Laws

/-- `spi_ev` of an event (R108). -/
def spiEntry (e : SpiEvent) : Text := spiEventText e.ts e.mosi e.miso

theorem spiText_eq (s : State) : spiText s = headSpi ++ joinComma ((spiEvents s).map spiEntry) ++ tailEvents := rfl

/-- The bit a clock rising edge at index `i` adds (R204). -/
def spiBitAt (s : State) (i : Nat) : SpiBit := ⟨i, level s i s.params.chSpiMosi, level s i s.params.chSpiMiso⟩

/-- The registers hold whether a transaction is open and the bits of its unfinished byte. -/
structure SpiHolds (isOpen : Bool) (bits : List SpiBit) (x : SpiRegs) : Prop where
  st : x.st = .transfer ↔ isOpen = true
  bitcnt : x.bitcnt = bits.length
  short : bits.length < 8
  mosi : x.mosiAcc.toNat = msbFirst (bits.map SpiBit.mosi)
  miso : x.misoAcc.toNat = msbFirst (bits.map SpiBit.miso)
  ts : bits ≠ [] → x.ts = (bits.map SpiBit.at_).headD 0

section Step

variable {s : State} {i : Nat} {isOpen : Bool} {bits : List SpiBit}

/-- The closed form at one index, with the transaction and its bits after the chip-select edge given (R206). -/
theorem spiEventsFrom_succ {nowOpen : Bool} {kept : List SpiBit} (n : Nat)
    (hopen : nowOpen = (fallingEdge s i s.params.chSpiCs || (isOpen && !risingEdge s i s.params.chSpiCs)))
    (hkept : kept = if fallingEdge s i s.params.chSpiCs then [] else bits) :
    spiEventsFrom s i (n + 1) isOpen bits =
      if nowOpen && risingEdge s i s.params.chSpiClk then
        if (kept ++ [spiBitAt s i]).length = 8 then
          spiEventOf (kept ++ [spiBitAt s i]) :: spiEventsFrom s (i + 1) n nowOpen []
        else spiEventsFrom s (i + 1) n nowOpen (kept ++ [spiBitAt s i])
      else spiEventsFrom s (i + 1) n nowOpen kept := by
  rw [spiEventsFrom, hopen, hkept]
  rfl

/-- A chip-select fall opens a transaction with no bits, a rise closes it (R202, R203). -/
theorem spiHolds_select {x : SpiRegs} (h : SpiHolds isOpen bits x) :
    SpiHolds (fallingEdge s i s.params.chSpiCs || (isOpen && !risingEdge s i s.params.chSpiCs))
      (if fallingEdge s i s.params.chSpiCs then [] else bits) (spiSelect s i x) := by
  unfold spiSelect
  cases hfall : fallingEdge s i s.params.chSpiCs with
  | true => exact ⟨by simp, rfl, by simp, rfl, rfl, by simp⟩
  | false =>
    cases hrise : risingEdge s i s.params.chSpiCs with
    | true => exact { h with st := by simp }
    | false => simpa using h

/-- The two lines and the timestamp after a clock edge are those of one bit more (R204). -/
theorem spiShift_adds {x : SpiRegs} (h : SpiHolds isOpen bits x) :
    (spiShift s i x).mosiAcc.toNat = msbFirst ((bits ++ [spiBitAt s i]).map SpiBit.mosi) ∧
      (spiShift s i x).misoAcc.toNat = msbFirst ((bits ++ [spiBitAt s i]).map SpiBit.miso) ∧
      (spiShift s i x).ts = ((bits ++ [spiBitAt s i]).map SpiBit.at_).headD 0 := by
  refine ⟨?_, ?_, ?_⟩
  · rw [List.map_append]
    exact toNat_shiftIn h.mosi (by simpa using h.short) _
  · rw [List.map_append]
    exact toNat_shiftIn h.miso (by simpa using h.short) _
  · cases bits with
    | nil => simp [spiShift, h.bitcnt, spiBitAt]
    | cons b bits => simpa [spiShift, h.bitcnt] using h.ts (List.cons_ne_nil _ _)

/-- Seven bits and one more emit the byte (R204, R205). -/
theorem spiEmit_eq {x : SpiRegs} (h : SpiHolds isOpen bits x) (r : Run) :
    spiEmit s (spiShift s i x) r = emitEvent s.params (spiEntry (spiEventOf (bits ++ [spiBitAt s i]))) r := by
  obtain ⟨hmosi, hmiso, hts⟩ := spiShift_adds (s := s) (i := i) h
  rw [spiEmit, hmosi, hmiso, hts]
  rfl

variable {r : Run}

/-- No clock edge, or no open transaction: the run stays (R204). -/
theorem spiClock_of_quiet (h : SpiHolds isOpen bits r.work.spi)
    (hquiet : (isOpen && risingEdge s i s.params.chSpiClk) = false) : spiClock s i r = r := by
  refine if_neg fun ⟨hst, hrise⟩ => ?_
  simp [h.st.1 hst, hrise] at hquiet

/-- A clock edge in an open transaction adds a bit, and emits the byte at the eighth (R204). -/
theorem spiClock_of_edge (h : SpiHolds isOpen bits r.work.spi)
    (hedge : (isOpen && risingEdge s i s.params.chSpiClk) = true) :
    spiClock s i r =
      if bits.length = 7 then
        (emitEvent s.params (spiEntry (spiEventOf (bits ++ [spiBitAt s i]))) r).setSpi
          { spiShift s i r.work.spi with mosiAcc := 0#8, misoAcc := 0#8, bitcnt := 0 }
      else r.setSpi { spiShift s i r.work.spi with bitcnt := bits.length + 1 } := by
  obtain ⟨hopen, hrise⟩ := Bool.and_eq_true_iff.1 hedge
  have hbitcnt : (spiShift s i r.work.spi).bitcnt = bits.length := h.bitcnt
  rw [spiClock, if_pos ⟨h.st.2 hopen, hrise⟩]
  simp only [hbitcnt, spiEmit_eq h]

/-- The registers after a byte hold no bits. -/
theorem spiHolds_byte {x : SpiRegs} (h : SpiHolds isOpen bits x) :
    SpiHolds isOpen [] { spiShift s i x with mosiAcc := 0#8, misoAcc := 0#8, bitcnt := 0 } :=
  ⟨h.st, rfl, by simp, rfl, rfl, by simp⟩

/-- The registers after a bit that is not the eighth hold one more. -/
theorem spiHolds_bit {x : SpiRegs} (h : SpiHolds isOpen bits x) (hshort : bits.length ≠ 7) :
    SpiHolds isOpen (bits ++ [spiBitAt s i]) { spiShift s i x with bitcnt := bits.length + 1 } := by
  obtain ⟨hmosi, hmiso, hts⟩ := spiShift_adds (s := s) (i := i) h
  have hlt := h.short
  exact ⟨h.st, by simp, by simp; omega, hmosi, hmiso, fun _ => hts⟩

end Step

/-- A scan emits the events of the closed form, from whatever transaction the registers hold (R208). -/
theorem emitted_scan_spi {s : State} {m0 : List Host.Cell} {head : Text} (n : Nat) :
    ∀ {i : Nat} {isOpen : Bool} {bits : List SpiBit} {r : Run} {evs : List Text},
      Emitted s.params m0 head r evs → SpiHolds isOpen bits r.work.spi →
        Emitted s.params m0 head (scan (spiStep s) i n r) (evs ++ (spiEventsFrom s i n isOpen bits).map spiEntry) := by
  induction n with
  | zero =>
    intro i isOpen bits r evs hev _
    simpa [spiEventsFrom] using emitted_congr (r' := r.setIdx i) hev rfl rfl
  | succ n ih =>
    intro i isOpen bits r evs hev hspi
    rw [scan_succ, spiStep, spiEventsFrom_succ n rfl rfl]
    have hev' : Emitted s.params m0 head ((r.setIdx i).setSpi (spiSelect s i r.work.spi)) evs :=
      emitted_congr hev rfl rfl
    have hspi' : SpiHolds _ _ ((r.setIdx i).setSpi (spiSelect s i r.work.spi)).work.spi :=
      spiHolds_select (s := s) (i := i) hspi
    rw [setIdx_spi]
    generalize (r.setIdx i).setSpi (spiSelect s i r.work.spi) = q at hev' hspi' ⊢
    generalize (fallingEdge s i s.params.chSpiCs || (isOpen && !risingEdge s i s.params.chSpiCs)) = nowOpen at hspi' ⊢
    generalize (if fallingEdge s i s.params.chSpiCs then [] else bits) = kept at hspi' ⊢
    cases hedge : nowOpen && risingEdge s i s.params.chSpiClk with
    | false =>
      rw [spiClock_of_quiet hspi' hedge]
      exact ih hev' hspi'
    | true =>
      rw [spiClock_of_edge hspi' hedge, if_pos rfl, List.length_append, List.length_singleton]
      by_cases hfull : kept.length = 7
      · rw [if_pos hfull, if_pos (by omega), List.map_cons, List.append_cons evs]
        refine ih ?_ (spiHolds_byte hspi')
        exact emitted_congr (hev'.emitEvent _) rfl rfl
      · rw [if_neg hfull, if_neg (by omega)]
        refine ih ?_ (spiHolds_bit hspi' hfull)
        exact emitted_congr hev' rfl rfl

/-- The text RUN.SPI writes is its closed form (R208). -/
theorem wrote_decodeSpi {s : State} (h : Memory.wf blankByte s.rb) :
    Wrote s.params s.rb (decodeSpi s (initRun (Run.ofState s))) (spiText s) := by
  have hinit : SpiHolds false [] (spiInit (append s.params headSpi (initRun (Run.ofState s)))).work.spi :=
    ⟨by simp [spiInit], rfl, by simp, rfl, rfl, by simp⟩
  have hhead : Emitted s.params s.rb headSpi (spiInit (append s.params headSpi (initRun (Run.ofState s)))) [] :=
    emitted_congr (emitted_head (r := Run.ofState s) h headSpi) rfl rfl
  obtain ⟨hwrote, -⟩ := emitted_scan_spi (s.params.half - 1) (i := 1) hhead hinit
  rw [spiText_eq]
  exact hwrote.append tailEvents

end Sys2Proof.Proofs

/-!
PROOFS. RUN.I2C (spec/45_i2c.md): the decoder's registers hold the bits received since the last START or acknowledgement
(R221 to R225), so that a scan emits the events of the closed form (R228).
-/
namespace Sys2Proof.Proofs

open Sys2Proof.Machine Sys2Proof.Safety Sys2Proof.Laws

/-- The registers hold the transfer so far: none, the data bits received, or eight of them, waiting for the
acknowledgement (R222 to R225). -/
inductive I2cHolds (x : I2cRegs) : Option (List Bool) → Prop
  | idle (st : x.st = .idle) : I2cHolds x none
  | data (bits : List Bool) (st : x.st = .data) (short : bits.length < 8) (bitcnt : x.bitcnt = bits.length)
      (acc : x.acc.toNat = msbFirst bits) : I2cHolds x (some bits)
  | ack (bits : List Bool) (st : x.st = .ack) (full : bits.length = 8) : I2cHolds x (some bits)

/-- A START or an acknowledgement leaves a transfer with no bits. -/
theorem i2cHolds_start : I2cHolds ⟨.data, 0#8, 0⟩ (some []) := .data [] rfl (by simp) rfl rfl

section Conditions

variable {s : State} {i : Nat}

/-- START, STOP and a clock edge exclude one another: the first two need a stable clock (R227). -/
theorem not_risingEdge_of_stableHigh {k : Nat} (h : stableHigh s i k = true) : risingEdge s i k = false := by
  simp only [stableHigh, Bool.and_eq_true] at h
  simp [risingEdge, h.1]

theorem i2cStartSeen_eq (s : State) (i : Nat) :
    i2cStartSeen s i = (level s i s.params.chI2cScl && level s (i - 1) s.params.chI2cScl &&
      level s (i - 1) s.params.chI2cSda && !level s i s.params.chI2cSda) := by
  simp only [i2cStartSeen, stableHigh, fallingEdge, Bool.and_assoc, Bool.and_left_comm]

theorem i2cStopSeen_eq (s : State) (i : Nat) :
    i2cStopSeen s i = (level s i s.params.chI2cScl && level s (i - 1) s.params.chI2cScl &&
      !level s (i - 1) s.params.chI2cSda && level s i s.params.chI2cSda) := by
  simp only [i2cStopSeen, stableHigh, risingEdge, Bool.and_assoc, Bool.and_left_comm]

theorem sclRises_eq (s : State) (i : Nat) :
    risingEdge s i s.params.chI2cScl = (level s i s.params.chI2cScl && !level s (i - 1) s.params.chI2cScl) :=
  Bool.and_comm _ _

/-! The closed form at one index, one equation for each of its cases -/

variable {bits : Option (List Bool)} (n : Nat)

theorem i2cEventsFrom_of_start (h : i2cStartSeen s i = true) :
    i2cEventsFrom s i (n + 1) bits = .start i :: i2cEventsFrom s (i + 1) n (some []) := by
  rw [i2cStartSeen_eq] at h
  cases bits <;> simp only [i2cEventsFrom, h, if_true]

theorem i2cEventsFrom_of_stop (hno : i2cStartSeen s i = false) (h : i2cStopSeen s i = true) :
    i2cEventsFrom s i (n + 1) bits = .stop i :: i2cEventsFrom s (i + 1) n none := by
  rw [i2cStartSeen_eq] at hno
  rw [i2cStopSeen_eq] at h
  cases bits <;> simp only [i2cEventsFrom, hno, h, if_true, Bool.false_eq_true, if_false]

theorem i2cEventsFrom_of_quiet (hstart : i2cStartSeen s i = false) (hstop : i2cStopSeen s i = false)
    (hquiet : risingEdge s i s.params.chI2cScl = false) :
    i2cEventsFrom s i (n + 1) bits = i2cEventsFrom s (i + 1) n bits := by
  rw [i2cStartSeen_eq] at hstart
  rw [i2cStopSeen_eq] at hstop
  rw [sclRises_eq] at hquiet
  cases bits <;> simp only [i2cEventsFrom, hstart, hstop, hquiet, Bool.false_eq_true, if_false]

/-- A clock edge in Idle does nothing (R224). -/
theorem i2cEventsFrom_of_idle (hstart : i2cStartSeen s i = false) (hstop : i2cStopSeen s i = false) :
    i2cEventsFrom s i (n + 1) none = i2cEventsFrom s (i + 1) n none := by
  rw [i2cStartSeen_eq] at hstart
  rw [i2cStopSeen_eq] at hstop
  simp only [i2cEventsFrom, hstart, hstop, Bool.false_eq_true, if_false, ite_self]

/-- A clock edge in a transfer is the acknowledgement after eight bits, and a data bit before (R224, R225). -/
theorem i2cEventsFrom_of_edge (hstart : i2cStartSeen s i = false) (hstop : i2cStopSeen s i = false)
    (hrise : risingEdge s i s.params.chI2cScl = true) (bs : List Bool) :
    i2cEventsFrom s i (n + 1) (some bs) =
      if bs.length = 8 then
        .ack i (!level s i s.params.chI2cSda) :: i2cEventsFrom s (i + 1) n (some [])
      else if bs.length = 7 then
        .data i (msbFirst (bs ++ [level s i s.params.chI2cSda])) ::
          i2cEventsFrom s (i + 1) n (some (bs ++ [level s i s.params.chI2cSda]))
      else i2cEventsFrom s (i + 1) n (some (bs ++ [level s i s.params.chI2cSda])) := by
  rw [i2cStartSeen_eq] at hstart
  rw [i2cStopSeen_eq] at hstop
  rw [sclRises_eq] at hrise
  simp only [i2cEventsFrom, hstart, hstop, hrise, Bool.false_eq_true, if_false, if_true]

end Conditions

/-! The decoder's step, one lemma for each of its cases -/

section Step

variable {s : State} {i : Nat} {r : Run}

theorem i2cStep_of_start (h : i2cStartSeen s i = true) :
    i2cStep s i r = (emitEvent s.params (i2cStartText i) r).setI2c ⟨.data, 0#8, 0⟩ := by
  have hquiet := not_risingEdge_of_stableHigh (Bool.and_eq_true_iff.1 h).1
  simp [i2cStep, i2cConditions, i2cClock, i2cEmit, h, hquiet]

theorem i2cStep_of_stop (hno : i2cStartSeen s i = false) (h : i2cStopSeen s i = true) :
    i2cStep s i r = (emitEvent s.params (i2cStopText i) r).setI2c { r.work.i2c with st := .idle } := by
  have hquiet := not_risingEdge_of_stableHigh (Bool.and_eq_true_iff.1 h).1
  simp [i2cStep, i2cConditions, i2cClock, i2cEmit, hno, h, hquiet]

/-- With neither condition the step is the clock's (R227). -/
theorem i2cStep_of_noCondition (hstart : i2cStartSeen s i = false) (hstop : i2cStopSeen s i = false) :
    i2cStep s i r = i2cClock s i r := by
  simp [i2cStep, i2cConditions, hstart, hstop]

theorem i2cClock_of_quiet (h : risingEdge s i s.params.chI2cScl = false) : i2cClock s i r = r := by
  simp [i2cClock, h]

theorem i2cClock_of_idle (h : r.work.i2c.st = .idle) : i2cClock s i r = r := by
  simp [i2cClock, h]

theorem i2cClock_of_data (hrise : risingEdge s i s.params.chI2cScl = true) (h : r.work.i2c.st = .data) :
    i2cClock s i r = i2cDataBit s i r := by
  simp [i2cClock, hrise, h]

theorem i2cClock_of_ack (hrise : risingEdge s i s.params.chI2cScl = true) (h : r.work.i2c.st = .ack) :
    i2cClock s i r = i2cAckBit s i r := by
  simp [i2cClock, hrise, h]

end Step

/-- A scan emits the events of the closed form, from whatever transfer the registers hold (R228). -/
theorem emitted_scan_i2c {s : State} {m0 : List Host.Cell} {head : Text} (n : Nat) :
    ∀ {i : Nat} {bits : Option (List Bool)} {r : Run} {evs : List Text},
      Emitted s.params m0 head r evs → I2cHolds r.work.i2c bits →
        Emitted s.params m0 head (scan (i2cStep s) i n r) (evs ++ (i2cEventsFrom s i n bits).map I2cEvent.text) := by
  induction n with
  | zero =>
    intro i bits r evs hev _
    simpa [i2cEventsFrom] using emitted_congr (r' := r.setIdx i) hev rfl rfl
  | succ n ih =>
    intro i bits r evs hev hi2c
    rw [scan_succ]
    have hev' : Emitted s.params m0 head (r.setIdx i) evs := emitted_congr hev rfl rfl
    have hi2c' : I2cHolds (r.setIdx i).work.i2c bits := hi2c
    generalize r.setIdx i = q at hev' hi2c' ⊢
    cases hstart : i2cStartSeen s i with
    | true =>
      rw [i2cStep_of_start hstart, i2cEventsFrom_of_start n hstart, List.map_cons, List.append_cons evs]
      exact ih (emitted_congr (hev'.emitEvent _) rfl rfl) i2cHolds_start
    | false =>
    cases hstop : i2cStopSeen s i with
    | true =>
      rw [i2cStep_of_stop hstart hstop, i2cEventsFrom_of_stop n hstart hstop, List.map_cons, List.append_cons evs]
      exact ih (emitted_congr (hev'.emitEvent _) rfl rfl) (.idle rfl)
    | false =>
    rw [i2cStep_of_noCondition hstart hstop]
    cases hrise : risingEdge s i s.params.chI2cScl with
    | false =>
      rw [i2cClock_of_quiet hrise, i2cEventsFrom_of_quiet n hstart hstop hrise]
      exact ih hev' hi2c'
    | true =>
    cases hi2c' with
    | idle st =>
      rw [i2cClock_of_idle st, i2cEventsFrom_of_idle n hstart hstop]
      exact ih hev' (.idle st)
    | ack bs st full =>
      rw [i2cClock_of_ack hrise st, i2cEventsFrom_of_edge n hstart hstop hrise, if_pos full, List.map_cons,
        List.append_cons evs]
      exact ih (emitted_congr (hev'.emitEvent _) rfl rfl) i2cHolds_start
    | data bs st short bitcnt acc =>
      have hacc := toNat_shiftIn acc short (level s i s.params.chI2cSda)
      rw [i2cClock_of_data hrise st, i2cEventsFrom_of_edge n hstart hstop hrise, if_neg (by omega), i2cDataBit, bitcnt]
      by_cases hfull : bs.length = 7
      · simp only [if_pos hfull, List.map_cons, hacc]
        rw [List.append_cons evs]
        exact ih (emitted_congr (hev'.emitEvent _) rfl rfl) (.ack _ rfl (by simp [hfull]))
      · simp only [if_neg hfull]
        exact ih (emitted_congr hev' rfl rfl) (.data _ rfl (by simp; omega) (by simp) hacc)

/-- The text RUN.I2C writes is its closed form (R228). -/
theorem wrote_decodeI2c {s : State} (h : Memory.wf blankByte s.rb) :
    Wrote s.params s.rb (decodeI2c s (initRun (Run.ofState s))) (i2cText s) := by
  have hinit : I2cHolds (i2cInit (append s.params headI2c (initRun (Run.ofState s)))).work.i2c none := .idle rfl
  have hhead : Emitted s.params s.rb headI2c (i2cInit (append s.params headI2c (initRun (Run.ofState s)))) [] :=
    emitted_congr (emitted_head (r := Run.ofState s) h headI2c) rfl rfl
  obtain ⟨hwrote, -⟩ := emitted_scan_i2c (s.params.half - 1) (i := 1) hhead hinit
  exact hwrote.append tailEvents

end Sys2Proof.Proofs

/-!
PROOFS. RUN.UART (spec/46_uart.md): inside a frame the registers hold the bits latched at the sample points passed so
far (R243 to R247), so that a scan emits the frames of the closed form (R251).
-/
namespace Sys2Proof.Proofs

open Sys2Proof.Machine Sys2Proof.Safety Sys2Proof.Laws

/-- `uart_ev` of a frame (R111). -/
def uartEntry (e : UartEvent) : Text := uartEventText e.ts e.value e.ferr

theorem uartText_eq (s : State) : uartText s = headUart ++ joinComma ((uartEvents s).map uartEntry) ++ tailEvents := rfl

/-! Sample points (R245 to R247) -/

theorem bitPeriod_eq (s : State) : bitPeriod s = max 1 (samplesPerBit s) := rfl

theorem samplePoint_succ (s : State) (e k : Nat) : samplePoint s e (k + 1) = samplePoint s e k + bitPeriod s := by
  rw [samplePoint, samplePoint, Nat.succ_mul]
  omega

theorem lt_samplePoint (s : State) (e k : Nat) : e < samplePoint s e k := by
  have hperiod : 1 ≤ bitPeriod s := Nat.le_max_left _ _
  rw [samplePoint]
  omega

theorem samplePoint_le {k j : Nat} (s : State) (e : Nat) (h : k ≤ j) : samplePoint s e k ≤ samplePoint s e j :=
  Nat.add_le_add_left (Nat.mul_le_mul_right _ h) _

/-! The closed form: the search for a start edge, and the frame of a start edge found -/

/-- The events from the start edge `e` on: its frame if the stop bit lies in the half, and those after it (R250). -/
def uartEventsOfFrame (s : State) (fuel e : Nat) : List UartEvent :=
  if samplePoint s e 8 < s.params.half then uartFrame s e :: uartEventsFrom s fuel (samplePoint s e 8 + 1) else []

theorem uartEventsFrom_of_le {s : State} {i : Nat} (h : s.params.half ≤ i) (fuel : Nat) :
    uartEventsFrom s fuel i = [] := by
  cases fuel with
  | zero => rfl
  | succ fuel => exact if_pos h

theorem uartEventsFrom_of_start {s : State} {i : Nat} (hi : i < s.params.half)
    (hfall : fallingEdge s i s.params.chUartRx = true) (fuel : Nat) :
    uartEventsFrom s (fuel + 1) i = uartEventsOfFrame s fuel i :=
  (if_neg (by omega)).trans (if_pos hfall)

theorem uartEventsFrom_of_quiet {s : State} {i : Nat} (hi : i < s.params.half)
    (hquiet : fallingEdge s i s.params.chUartRx = false) (fuel : Nat) :
    uartEventsFrom s (fuel + 1) i = uartEventsFrom s fuel (i + 1) :=
  (if_neg (by omega)).trans (if_neg (by simpa [fallingEdge] using hquiet))

/-! The registers -/

/-- The data bits of the frame with start edge `e` at its first `k` sample points (R245). -/
def uartBits (s : State) (e k : Nat) : List Bool :=
  (List.range k).map fun j => level s (samplePoint s e j) s.params.chUartRx

theorem uartBits_succ (s : State) (e k : Nat) :
    uartBits s e (k + 1) = uartBits s e k ++ [uartRx s (samplePoint s e k)] := by
  simp [uartBits, uartRx, List.range_succ]

theorem uartBits_length (s : State) (e k : Nat) : (uartBits s e k).length = k := by
  simp [uartBits]

/-- At index `i`, inside the frame with start edge `e`, `k` of its bits have been latched; eight wait for the stop bit.
A bit period of 0 puts `nxt` behind the scan, which then samples at every index (R247). -/
structure UartFrameAt (s : State) (e k i : Nat) (x : UartRegs) : Prop where
  spb : x.spb = samplesPerBit s
  ts : x.ts = e
  state : (k < 8 ∧ x.st = .data ∧ x.bitcnt = k) ∨ (k = 8 ∧ x.st = .stop)
  acc : x.acc.toNat = lsbFirst (uartBits s e k)
  nxt : x.nxt = e + samplesPerBit s + samplesPerBit s / 2 + k * samplesPerBit s
  due : max x.nxt i = samplePoint s e k

theorem UartFrameAt.data {s : State} {e k i : Nat} {x : UartRegs} (h : UartFrameAt s e k i x) (hk : k < 8) :
    x.st = .data ∧ x.bitcnt = k := by
  rcases h.state with ⟨-, hdata⟩ | ⟨hfull, -⟩
  · exact hdata
  · omega

theorem UartFrameAt.le_eight {s : State} {e k i : Nat} {x : UartRegs} (h : UartFrameAt s e k i x) : k ≤ 8 := by
  rcases h.state with ⟨hlt, -⟩ | ⟨hfull, -⟩ <;> omega

/-- The registers search for a start edge. -/
structure UartSearches (s : State) (x : UartRegs) : Prop where
  spb : x.spb = samplesPerBit s
  st : x.st = .idle

section Registers

variable {s : State} {e k i : Nat} {x : UartRegs}

/-- A start edge schedules the first sample point (R243). -/
theorem uartFrameAt_start (h : UartSearches s x) (hfall : fallingEdge s i s.params.chUartRx = true) :
    UartFrameAt s i 0 (i + 1) (uartIdle s i x) := by
  have hspb := h.spb
  rw [uartIdle, if_pos hfall]
  exact {
    spb := hspb
    ts := rfl
    state := .inl ⟨by decide, rfl, rfl⟩
    acc := rfl
    nxt := by simp [hspb]
    due := by
      simp only [hspb, samplePoint, bitPeriod_eq]
      omega }

theorem uartSearches_quiet (h : UartSearches s x) (hquiet : fallingEdge s i s.params.chUartRx = false) :
    UartSearches s (uartIdle s i x) := by
  rw [uartIdle, if_neg (by simp [hquiet])]
  exact h

/-- Before the sample point nothing changes. -/
theorem uartFrameAt_wait (h : UartFrameAt s e k i x) (hwait : i < x.nxt) : UartFrameAt s e k (i + 1) x :=
  { h with
    due := by
      have hdue := h.due
      omega }

/-- The scan reaches the sample point and does not jump over it. -/
theorem uartFrameAt_point (h : UartFrameAt s e k i x) (hdue : x.nxt ≤ i) : i = samplePoint s e k := by
  have hmax := h.due
  omega

/-- A data bit is latched at its sample point, least significant first (R245). -/
theorem uartFrameAt_latch (h : UartFrameAt s e k i x) (hk : k < 8) (hdue : x.nxt ≤ i) :
    UartFrameAt s e (k + 1) (i + 1) (uartData s i x) := by
  have hpoint := uartFrameAt_point h hdue
  obtain ⟨hst, hbitcnt⟩ := h.data hk
  have hacc : (insertBit x.acc (uartRx s i) k).toNat = lsbFirst (uartBits s e (k + 1)) := by
    have hins := toNat_insertBit h.acc (by rwa [uartBits_length]) (uartRx s i)
    rw [uartBits_length] at hins
    rw [uartBits_succ, ← hpoint, hins]
  have hnxt : x.nxt + samplesPerBit s =
      e + samplesPerBit s + samplesPerBit s / 2 + (k + 1) * samplesPerBit s := by
    rw [h.nxt, Nat.succ_mul, Nat.add_assoc _ (k * samplesPerBit s)]
  have hnext : max (x.nxt + samplesPerBit s) (i + 1) = samplePoint s e (k + 1) := by
    rw [samplePoint_succ, ← hpoint, bitPeriod_eq]
    by_cases hzero : samplesPerBit s = 0
    · omega
    · have hsame : x.nxt = i := by
        rw [hpoint, h.nxt, samplePoint, bitPeriod_eq, Nat.max_eq_right (by omega)]
      omega
  rw [uartData, if_pos hdue, hbitcnt, h.spb]
  by_cases hlast : k = 7
  · rw [if_pos hlast]
    exact ⟨rfl, h.ts, .inr ⟨by omega, rfl⟩, hacc, hnxt, hnext⟩
  · rw [if_neg hlast]
    exact ⟨rfl, h.ts, .inl ⟨by omega, hst, rfl⟩, hacc, hnxt, hnext⟩

end Registers

/-! The decoder's step, one lemma for each of its cases (R244) -/

section Step

variable {s : State} {e k i : Nat} {r : Run}

theorem uartStep_of_searches (h : UartSearches s r.work.uart) :
    uartStep s i r = r.setUart (uartIdle s i r.work.uart) := by
  simp only [uartStep, h.st]

/-- Outside the sample points a frame changes nothing. -/
theorem uartStep_of_wait (h : UartFrameAt s e k i r.work.uart) (hwait : i < r.work.uart.nxt) :
    uartStep s i r = r := by
  have hnot : ¬ r.work.uart.nxt ≤ i := by omega
  rcases h.state with ⟨-, hst, -⟩ | ⟨-, hst⟩
  · simp only [uartStep, hst, uartData, if_neg hnot]
    rfl
  · simp only [uartStep, hst, uartStop, if_neg hnot]

theorem uartStep_of_data (h : UartFrameAt s e k i r.work.uart) (hk : k < 8) :
    uartStep s i r = r.setUart (uartData s i r.work.uart) := by
  simp only [uartStep, (h.data hk).1]

/-- At the stop bit's sample point the frame is emitted (R246). -/
theorem uartStep_of_stop (h : UartFrameAt s e 8 i r.work.uart) (hdue : r.work.uart.nxt ≤ i) :
    uartStep s i r =
      (emitEvent s.params (uartEntry (uartFrame s e)) r).setUart { r.work.uart with st := .idle } := by
  have hst : r.work.uart.st = .stop := by
    rcases h.state with ⟨hlt, -⟩ | ⟨-, hst⟩
    · omega
    · exact hst
  have hevent : uartEventText r.work.uart.ts r.work.uart.acc.toNat (framingError (uartRx s i)) =
      uartEntry (uartFrame s e) := by
    rw [h.ts, h.acc, uartFrameAt_point h hdue]
    rfl
  simp only [uartStep, hst, uartStop, if_pos hdue, uartEmit, raise_eq, ite_self, hevent]

end Step

/-- A scan to the end of the half emits the events of the closed form, from a search at index `i` and from inside a
frame (R250, R251). -/
theorem emitted_scan_uart {s : State} {m0 : List Host.Cell} {head : Text} (n : Nat) :
    ∀ {i : Nat} {r : Run} {evs : List Text}, i + n = s.params.half → Emitted s.params m0 head r evs →
      (UartSearches s r.work.uart → ∀ fuel, n ≤ fuel →
        Emitted s.params m0 head (scan (uartStep s) i n r) (evs ++ (uartEventsFrom s fuel i).map uartEntry)) ∧
      (∀ e k, UartFrameAt s e k i r.work.uart → ∀ fuel, s.params.half ≤ samplePoint s e 8 + 1 + fuel →
        Emitted s.params m0 head (scan (uartStep s) i n r) (evs ++ (uartEventsOfFrame s fuel e).map uartEntry)) := by
  induction n with
  | zero =>
    intro i r evs hi hev
    have hend : Emitted s.params m0 head (r.setIdx i) (evs ++ []) := by
      simpa using emitted_congr (r' := r.setIdx i) hev rfl rfl
    refine ⟨fun _ fuel _ => ?_, fun e k hframe fuel _ => ?_⟩
    · rw [uartEventsFrom_of_le (by omega)]
      exact hend
    · have hpoint : s.params.half ≤ samplePoint s e 8 := by
        have hle := samplePoint_le s e hframe.le_eight
        have hdue := hframe.due
        omega
      rw [uartEventsOfFrame, if_neg (by omega)]
      exact hend
  | succ n ih =>
    intro i r evs hi hev
    have hev' : Emitted s.params m0 head (r.setIdx i) evs := emitted_congr hev rfl rfl
    rw [scan_succ, ← setIdx_uart i r]
    generalize r.setIdx i = q at hev' ⊢
    refine ⟨fun hsearch fuel hfuel => ?_, fun e k hframe fuel hfuel => ?_⟩
    · obtain ⟨fuel, rfl⟩ : ∃ f, fuel = f + 1 := ⟨fuel - 1, by omega⟩
      rw [uartStep_of_searches hsearch]
      have hkeep : Emitted s.params m0 head (q.setUart (uartIdle s i q.work.uart)) evs := emitted_congr hev' rfl rfl
      cases hfall : fallingEdge s i s.params.chUartRx with
      | true =>
        rw [uartEventsFrom_of_start (by omega) hfall]
        have hlt := lt_samplePoint s i 8
        exact (ih (by omega) hkeep).2 i 0 (uartFrameAt_start hsearch hfall) fuel (by omega)
      | false =>
        rw [uartEventsFrom_of_quiet (by omega) hfall]
        exact (ih (by omega) hkeep).1 (uartSearches_quiet hsearch hfall) fuel (by omega)
    · by_cases hwait : i < q.work.uart.nxt
      · rw [uartStep_of_wait hframe hwait]
        exact (ih (by omega) hev').2 e k (uartFrameAt_wait hframe hwait) fuel hfuel
      have hdue : q.work.uart.nxt ≤ i := by omega
      by_cases hk : k < 8
      · rw [uartStep_of_data hframe hk]
        have hkeep : Emitted s.params m0 head (q.setUart (uartData s i q.work.uart)) evs := emitted_congr hev' rfl rfl
        exact (ih (by omega) hkeep).2 e (k + 1) (uartFrameAt_latch hframe hk hdue) fuel hfuel
      · obtain rfl : k = 8 := by
          have hle := hframe.le_eight
          omega
        have hpoint := uartFrameAt_point hframe hdue
        rw [uartStep_of_stop hframe hdue, uartEventsOfFrame, if_pos (by omega), List.map_cons, List.append_cons evs,
          ← hpoint]
        have hemit : Emitted s.params m0 head ((emitEvent s.params (uartEntry (uartFrame s e)) q).setUart
            { q.work.uart with st := .idle }) (evs ++ [uartEntry (uartFrame s e)]) :=
          emitted_congr (hev'.emitEvent _) rfl rfl
        exact (ih (by omega) hemit).1 ⟨hframe.spb, rfl⟩ fuel (by omega)

/-- The text RUN.UART writes is its closed form (R251). -/
theorem wrote_decodeUart {s : State} (hp : s.params.wf = true) (h : Memory.wf blankByte s.rb) :
    Wrote s.params s.rb (decodeUart s (initRun (Run.ofState s))) (uartText s) := by
  obtain ⟨-, hhalf⟩ := bufSize_eq hp
  have hhead : Emitted s.params s.rb headUart (uartInit s (append s.params headUart (initRun (Run.ofState s)))) [] :=
    emitted_congr (emitted_head (r := Run.ofState s) h headUart) rfl rfl
  obtain ⟨hsearch, -⟩ := emitted_scan_uart (s.params.half - 1) (i := 1) (by omega) hhead
  obtain ⟨hwrote, -⟩ := hsearch ⟨rfl, rfl⟩ s.params.half (by omega)
  rw [uartText_eq]
  exact hwrote.append tailEvents

end Sys2Proof.Proofs

/-!
PROOFS. RUN.GPIO (spec/43_gpio.md): a channel's scan collects its records in the scratch (R182 to R184), the merge makes
of them one entry of the waveform (R185), and the entries of all channels are the closed form (R186).
-/
namespace Sys2Proof.Proofs

open Sys2Proof.Machine Sys2Proof.Safety Sys2Proof.Laws

/-! The closed form in pieces -/

/-- The records of a list of levels, joined (R106). -/
def recordsText (pairs : List (Nat × Bool)) : Text := joinComma (pairs.map fun x => pairText x.1 x.2)

/-- The index-0 record, which channel 0 alone has (R184). -/
def gpioInitialPairs (s : State) (c : Nat) : List (Nat × Bool) := if c = 0 then [(0, level s 0 0)] else []

/-- The transitions of a channel at `n` indices from `i` (R181). -/
def gpioTransitionsFrom (s : State) (c i n : Nat) : List (Nat × Bool) :=
  ((List.range' i n).filter fun i => level s i c != level s (i - 1) c).map fun i => (i, level s i c)

/-- The entry of a channel in the waveform (R106, R185). -/
def gpioEntry (s : State) (c : Nat) : Text := chanKey c ++ gpioScratchText s c ++ chanEnd

/-- The entries of the channels of a list that have a transition (R185). -/
def gpioEntries (s : State) (chans : List Nat) : List Text :=
  (chans.filter fun c => !(gpioTransitions s c).isEmpty).map (gpioEntry s)

theorem gpioText_eq (s : State) :
    gpioText s = headGpio ++ joinComma (gpioEntries s (List.range' 0 channelCount)) ++ tailGpio := by
  rw [← List.range_eq_range']
  rfl

theorem gpioPairs_eq (s : State) (c : Nat) : gpioPairs s c = gpioInitialPairs s c ++ gpioTransitions s c := by
  by_cases hc : c = 0
  · subst hc
    rfl
  · simp [gpioPairs, gpioInitialPairs, hc]

theorem gpioScratchText_eq (s : State) (c : Nat) :
    gpioScratchText s c =
      (recordsText (gpioInitialPairs s c ++ gpioTransitions s c)).take (s.params.scratchCap - s.params.fmtReserve) := by
  rw [← gpioPairs_eq]
  rfl

theorem gpioTransitionsFrom_succ (s : State) (c i n : Nat) :
    gpioTransitionsFrom s c i (n + 1) =
      if transition s i c then (i, level s i c) :: gpioTransitionsFrom s c (i + 1) n
      else gpioTransitionsFrom s c (i + 1) n := by
  simp only [gpioTransitionsFrom, List.range'_succ, List.filter_cons]
  exact apply_ite _ _ _ _

/-! The scan of one channel -/

/-- The scratch and the detector's registers hold the records `first` and those of the transitions `trs`, and RB and
the formatter's registers are those of `r0`. -/
structure GpioHolds (p : Params) (m0 : List Host.Cell) (r0 : Run) (first trs : List (Nat × Bool)) (r : Run) : Prop where
  text : ScrWrote p m0 r (recordsText (first ++ trs))
  sep : r.work.gpio.sep = !(first ++ trs).isEmpty
  hasTr : r.work.gpio.hasTr = !trs.isEmpty
  rb : r.rb = r0.rb
  fmt : r.work.fmt = r0.work.fmt

theorem recordsText_concat (pairs : List (Nat × Bool)) (i : Nat) (b : Bool) :
    recordsText (pairs ++ [(i, b)]) =
      if pairs = [] then pairText i b else recordsText pairs ++ comma ++ pairText i b := by
  simp [recordsText, joinComma_concat]

section Channel

variable {s : State} {m0 : List Host.Cell} {r0 r : Run} {c i : Nat} {first trs : List (Nat × Bool)}

/-- Channel 0 begins with its index-0 record, the others with none (R182, R184). -/
theorem gpioHolds_start (h : Memory.wf blankByte r.scr) :
    GpioHolds s.params r.scr r (gpioInitialPairs s c) [] (gpioInitialRecord s c (gpioStart c r)) := by
  have hnil : ScrWrote s.params r.scr (gpioStart c r) [] := holds_nil h
  by_cases hc : c = 0
  · subst hc
    exact ⟨(hnil.scrAppend _).congr rfl rfl, rfl, scrAppend_hasTr _ _ _, scrAppend_rb _ _ _, scrAppend_fmt _ _ _⟩
  · simp only [gpioInitialRecord, gpioInitialPairs, if_neg hc]
    exact ⟨hnil, rfl, rfl, rfl, rfl⟩

theorem gpioHolds_setIdx {p : Params} (h : GpioHolds p m0 r0 first trs r) (v : Nat) :
    GpioHolds p m0 r0 first trs (r.setIdx v) :=
  ⟨h.text, h.sep, h.hasTr, h.rb, h.fmt⟩

/-- No transition, no record. -/
theorem gpioStep_of_quiet (h : transition s i c = false) : gpioStep s c i r = r := by
  simp [gpioStep, h]

/-- A transition adds its record, after a comma if it is not the channel's first (R183). -/
theorem gpioHolds_transition (h : GpioHolds s.params m0 r0 first trs r) (htr : transition s i c = true) :
    GpioHolds s.params m0 r0 first (trs ++ [(i, level s i c)]) (gpioStep s c i r) := by
  have htext : ScrWrote s.params m0 (scrAppend s.params (pairText i (level s i c)) (gpioSeparator s r))
      (recordsText (first ++ (trs ++ [(i, level s i c)]))) := by
    rw [← List.append_assoc, recordsText_concat, gpioSeparator, h.sep]
    by_cases hnil : first ++ trs = []
    · have hempty := h.text
      rw [hnil] at hempty ⊢
      simpa [recordsText, joinComma] using hempty.scrAppend (pairText i (level s i c))
    · simpa [hnil] using (h.text.scrAppend comma).scrAppend (pairText i (level s i c))
  rw [gpioStep, if_pos htr]
  obtain ⟨hrb, hfmt⟩ : (gpioSeparator s r).rb = r.rb ∧ (gpioSeparator s r).work.fmt = r.work.fmt := by
    unfold gpioSeparator
    split <;> simp
  exact ⟨htext.congr rfl rfl, by simp [gpioMark], by simp [gpioMark], by simp [gpioMark, hrb, h.rb],
    by simp [gpioMark, hfmt, h.fmt]⟩

end Channel

/-- A scan adds the records of the transitions it passes (R183). -/
theorem gpioHolds_scan {s : State} {m0 : List Host.Cell} {r0 : Run} {c : Nat} {first : List (Nat × Bool)} (n : Nat) :
    ∀ {i : Nat} {trs : List (Nat × Bool)} {r : Run}, GpioHolds s.params m0 r0 first trs r →
      GpioHolds s.params m0 r0 first (trs ++ gpioTransitionsFrom s c i n) (scan (gpioStep s c) i n r) := by
  induction n with
  | zero =>
    intro i trs r h
    simpa [gpioTransitionsFrom] using gpioHolds_setIdx h i
  | succ n ih =>
    intro i trs r h
    have h' := gpioHolds_setIdx h i
    rw [scan_succ, gpioTransitionsFrom_succ]
    cases htr : transition s i c with
    | true =>
      rw [if_pos rfl, List.append_cons]
      exact ih (gpioHolds_transition h' htr)
    | false =>
      rw [gpioStep_of_quiet htr]
      exact ih h'

/-- The merge appends the channel's entry if it has a transition, and nothing otherwise (R185). -/
theorem emitted_gpioMerge {s : State} {m0 m1 : List Host.Cell} {head : Text} {evs : List Text} {r0 r : Run} {c : Nat}
    (hev : Emitted s.params m0 head r0 evs)
    (h : GpioHolds s.params m1 r0 (gpioInitialPairs s c) (gpioTransitions s c) r) :
    Emitted s.params m0 head (gpioMerge s c r) (evs ++ gpioEntries s [c]) := by
  have hev' : Emitted s.params m0 head r evs := emitted_congr hev h.rb h.fmt
  rw [gpioMerge, h.hasTr]
  by_cases htr : (gpioTransitions s c).isEmpty = true
  · simpa [gpioEntries, htr] using hev'
  · have hscratch : scratchText r = gpioScratchText s c := by
      rw [gpioScratchText_eq]
      exact h.text.bytes
    obtain ⟨before, hwrote, hbefore⟩ := exists_wrote_appendComma hev'
    have hentry : gpioEntries s [c] = [gpioEntry s c] := by simp [gpioEntries, htr]
    rw [if_pos (by simpa using htr), hentry, hscratch]
    refine ⟨?_, by simp⟩
    rw [← hbefore, gpioEntry, ← List.append_assoc, ← List.append_assoc]
    exact (((hwrote.append _).append _).append _).congr rfl rfl

/-- The scans of `n` channels from `c` emit their entries, in order (R180). -/
theorem emitted_gpioChannels {s : State} {m0 : List Host.Cell} {head : Text} (n : Nat) :
    ∀ {c : Nat} {r : Run} {evs : List Text}, Emitted s.params m0 head r evs → Memory.wf blankByte r.scr →
      Emitted s.params m0 head (gpioChannels s c n r) (evs ++ gpioEntries s (List.range' c n)) := by
  induction n with
  | zero =>
    intro c r evs hev _
    simpa [gpioEntries, gpioChannels] using hev
  | succ n ih =>
    intro c r evs hev hscr
    have hholds : GpioHolds s.params r.scr r (gpioInitialPairs s c) (gpioTransitions s c)
        (scanHalf s (gpioStep s c) (gpioInitialRecord s c (gpioStart c r))) :=
      gpioHolds_scan (s.params.half - 1) (i := 1) (gpioHolds_start hscr)
    have hentries : gpioEntries s (List.range' c (n + 1)) =
        gpioEntries s [c] ++ gpioEntries s (List.range' (c + 1) n) := by
      rw [List.range'_succ, ← List.singleton_append, gpioEntries, List.filter_append, List.map_append]
      rfl
    rw [hentries, ← List.append_assoc]
    refine ih (emitted_gpioMerge hev hholds) ?_
    rw [gpioScan, gpioMerge_scr]
    exact hholds.text.wf

/-- The text RUN.GPIO writes is its closed form (R186). -/
theorem wrote_decodeGpio {s : State} (hrb : Memory.wf blankByte s.rb) (hscr : Memory.wf blankByte s.scr) :
    Wrote s.params s.rb (decodeGpio s (initRun (Run.ofState s))) (gpioText s) := by
  have hhead : Emitted s.params s.rb headGpio (append s.params headGpio (initRun (Run.ofState s))) [] :=
    emitted_head (r := Run.ofState s) hrb headGpio
  have hscr' : Memory.wf blankByte (append s.params headGpio (initRun (Run.ofState s))).scr := by simpa using hscr
  obtain ⟨hwrote, -⟩ := emitted_gpioChannels channelCount (c := 0) hhead hscr'
  rw [gpioText_eq]
  exact (hwrote.append tailGpio).congr rfl rfl

end Sys2Proof.Proofs

/-!
PROOFS. The Report of a run, whatever its tag (spec/42_dispatcher.md R101, R162), and what it depends on (R166).
-/
namespace Sys2Proof.Proofs

open Sys2Proof.Machine Sys2Proof.Safety Sys2Proof.Laws

/-- The decoder a tag selects writes the closed form the tag selects (R101, R162, R165). -/
theorem wrote_decoderOf_decodeTag {s : State} (hp : s.params.wf = true) (hrb : Memory.wf blankByte s.rb)
    (hscr : Memory.wf blankByte s.scr) :
    Wrote s.params s.rb (decoderOf (decodeTag s.snap.proto) s (initRun (Run.ofState s))) (fullText s) := by
  have hunknown : Wrote s.params s.rb (decodeUnknown s (initRun (Run.ofState s))) unkText :=
    (wrote_init (r := Run.ofState s) hrb).append unkText
  unfold decodeTag fullText
  split
  · exact wrote_decodeGpio hrb hscr
  split
  · exact wrote_decodeSpi hrb
  split
  · exact wrote_decodeI2c hrb
  split
  · exact wrote_decodeUart hp hrb
  split <;> exact hunknown

theorem reportBytes_afterRun_decodeTag {s : State} (hp : s.params.wf = true) (hrb : Memory.wf blankByte s.rb)
    (hscr : Memory.wf blankByte s.scr) :
    reportBytes (afterRun (decoderOf (decodeTag s.snap.proto)) s) = reportOf s.params (fullText s) :=
  reportBytes_of_wrote (wrote_decoderOf_decodeTag hp hrb hscr)

/-! A closed form depends on the parameters, the snapshot and the levels alone (R166) -/

section Inputs

variable {s t : State}

theorem fallingEdge_congr (hlevel : level t = level s) : fallingEdge t = fallingEdge s := by
  funext i k
  rw [fallingEdge, fallingEdge, hlevel]

theorem risingEdge_congr (hlevel : level t = level s) : risingEdge t = risingEdge s := by
  funext i k
  rw [risingEdge, risingEdge, hlevel]

theorem gpioText_congr (hparams : t.params = s.params) (hlevel : level t = level s) : gpioText t = gpioText s := by
  simp only [gpioText, gpioScratchText, gpioPairs, gpioTransitions, scanIndices, hparams, hlevel]

theorem spiEventsFrom_congr (hparams : t.params = s.params) (hlevel : level t = level s) (n : Nat) :
    ∀ i isOpen bits, spiEventsFrom t i n isOpen bits = spiEventsFrom s i n isOpen bits := by
  induction n with
  | zero => exact fun _ _ _ => rfl
  | succ n ih =>
    intro i isOpen bits
    simp only [spiEventsFrom, ih]
    rw [fallingEdge_congr hlevel, risingEdge_congr hlevel, hlevel, hparams]

theorem i2cEventsFrom_congr (hparams : t.params = s.params) (hlevel : level t = level s) (n : Nat) :
    ∀ i bits, i2cEventsFrom t i n bits = i2cEventsFrom s i n bits := by
  induction n with
  | zero => exact fun _ _ => rfl
  | succ n ih =>
    intro i bits
    cases bits <;> simp only [i2cEventsFrom, hparams, hlevel, ih]

theorem samplePoint_congr (hparams : t.params = s.params) (hsnap : t.snap = s.snap) (e k : Nat) :
    samplePoint t e k = samplePoint s e k := by
  simp only [samplePoint, bitPeriod, hparams, hsnap]

theorem uartEventsFrom_congr (hparams : t.params = s.params) (hsnap : t.snap = s.snap) (hlevel : level t = level s)
    (fuel : Nat) : ∀ i, uartEventsFrom t fuel i = uartEventsFrom s fuel i := by
  induction fuel with
  | zero => exact fun _ => rfl
  | succ fuel ih =>
    intro i
    simp only [uartEventsFrom, uartFrame, samplePoint_congr hparams hsnap, hparams, hlevel, ih]

theorem fullText_congr (hparams : t.params = s.params) (hsnap : t.snap = s.snap) (hlevel : level t = level s) :
    fullText t = fullText s := by
  simp only [fullText, gpioText_congr hparams hlevel, spiText, spiEvents, spiEventsFrom_congr hparams hlevel, i2cText,
    i2cEvents, i2cEventsFrom_congr hparams hlevel, uartText, uartEvents, uartEventsFrom_congr hparams hsnap hlevel,
    hparams, hsnap]

/-- A run keeps all that its closed form depends on. -/
theorem fullText_afterRun (d : State → Run → Run) (s : State) : fullText (afterRun d s) = fullText s :=
  fullText_congr rfl rfl rfl

end Inputs

end Sys2Proof.Proofs

/-!
PROOFS. The whole cycle (spec/41_arbiter.md R147, spec/70_reset_and_hazards.md R345): START, the TICKs that fill half 0,
WAKE and RUN.
-/
namespace Sys2Proof.Proofs

open Sys2Proof.Machine Sys2Proof.Safety Sys2Proof.Laws

/-! Runs of several steps -/

theorem run_succ_of_step {M : Host.Core} {s t : M.State} (h : M.step s = .next t) (k : Nat) :
    M.run (k + 1) s = M.run k t := by
  simp only [Host.Core.run, h]

theorem run_add_of_run {M : Host.Core} {s t : M.State} {j : Nat} (h : M.run j s = .next t) (k : Nat) :
    M.run (j + k) s = M.run k t := by
  induction j generalizing s with
  | zero =>
    cases h
    rw [Nat.zero_add]
  | succ j ih =>
    cases hstep : M.step s with
    | next u =>
      rw [run_succ_of_step hstep] at h
      rw [Nat.succ_add, run_succ_of_step hstep, ih h]
    | fault f => simp [Host.Core.run, hstep] at h
    | refused f => simp [Host.Core.run, hstep] at h

/-! TICKs in half 0 after an arm (R142, R147) -/

/-- SB after the Samples `pins` are stored one after another from index `a` on (R142). -/
def storeSamples (width : Nat) (m : Memory Sample) (a : Nat) : List Sample → Memory Sample
  | [] => m
  | p :: pins => storeSamples width (writeCell blankSample m a (p % 2 ^ width)) (a + 1) pins

/-- Each Sample stored is read back at its place. -/
theorem readCell_storeSamples {width : Nat} {m : Memory Sample} (h : Memory.wf blankSample m) (a : Nat)
    (pins : List Sample) (c : Nat) :
    readCell blankSample (storeSamples width m a pins) c =
      if a ≤ c ∧ c < a + pins.length then pins.getD (c - a) 0 % 2 ^ width else readCell blankSample m c := by
  induction pins generalizing m a with
  | nil => rw [if_neg (by simp)]; rfl
  | cons p pins ih =>
    rw [storeSamples, ih (writeCell_wf h a _), readCell_writeCell h.1]
    rcases lt_trichotomy c a with hlt | rfl | hgt
    · rw [if_neg (by omega), if_neg (by omega), if_neg (by omega)]
    · rw [if_neg (by omega), if_pos rfl, if_pos (by simp), Nat.sub_self, List.getD_cons_zero]
    · obtain ⟨k, rfl⟩ : ∃ k, c = a + 1 + k := ⟨c - (a + 1), by omega⟩
      rw [show a + 1 + k - (a + 1) = k by omega, show a + 1 + k - a = k + 1 by omega, List.getD_cons_succ,
        if_neg (show ¬ a + 1 + k = a by omega)]
      exact if_congr (by rw [List.length_cons]; omega) rfl rfl

/-- The machine is armed and still fills half 0 (R141). -/
structure FillingFirst (s : State) : Prop where
  legal : s.params.wf = true
  trigEn : s.trigEn = true
  noteEn : s.noteEn = true
  served : s.served = false

/-- The state when `pins` have filled half 0 from the pointer on: its end is notified (R143). -/
def firstHalfFilled (s : State) (pins : List Sample) : State :=
  postSignal .first { s with
    agenda := [], sb := storeSamples s.params.sampleWidth s.sb s.wrPtr pins, wrPtr := s.params.half }

section Ticks

variable {s : State} {p : Sample} {rest : List Turn}

/-- A TICK before the end of half 0 stores its Sample and moves on. -/
theorem step_tick_of_filling (h : FillingFirst s) (hagenda : s.agenda = .tick p :: rest)
    (hinside : s.wrPtr + 1 < s.params.half) :
    step s = .next { s with
      agenda := rest, sb := writeCell blankSample s.sb s.wrPtr (p % 2 ^ s.params.sampleWidth)
      wrPtr := s.wrPtr + 1 } := by
  obtain ⟨hsize, -⟩ := bufSize_eq h.legal
  rw [step_cons hagenda, takeTurn, tick_of_triggerOn (s := { s with agenda := rest }) h.trigEn (by simp; omega),
    advancePointer_inside (by simp; omega) (by simp; omega)]
  rfl

/-- The TICK at the end of half 0 notifies. -/
theorem step_tick_at_half (h : FillingFirst s) (hagenda : s.agenda = [.tick p])
    (hend : s.wrPtr + 1 = s.params.half) : step s = .next (firstHalfFilled s [p]) := by
  obtain ⟨hsize, -⟩ := bufSize_eq h.legal
  rw [step_cons hagenda, takeTurn, tick_of_triggerOn (s := { s with agenda := [] }) h.trigEn (by simp; omega),
    advancePointer_at_half (by simpa using hend), notify_of_unserved (by simp [h.noteEn]) (by simpa using h.served)]
  rfl

end Ticks

/-- The TICKs that fill the rest of half 0, one step each. -/
theorem run_ticks {pins : List Sample} : ∀ {s : State} {p : Sample}, FillingFirst s →
    s.agenda = (p :: pins).map Turn.tick → s.wrPtr + (p :: pins).length = s.params.half →
      Host.Core.run Sys2Proof.core (p :: pins).length s = .next (firstHalfFilled s (p :: pins)) := by
  induction pins with
  | nil =>
    intro s p h hagenda hlen
    exact run_succ_of_step (M := Sys2Proof.core) (step_tick_at_half h hagenda hlen) 0
  | cons q pins ih =>
    intro s p h hagenda hlen
    simp only [List.length_cons] at hlen
    have hstep := step_tick_of_filling h hagenda (by omega)
    refine (run_succ_of_step (M := Sys2Proof.core) hstep _).trans ((ih ?_ rfl ?_).trans rfl)
    · exact ⟨h.legal, h.trigEn, h.noteEn, h.served⟩
    · simp only [List.length_cons]
      omega

/-! START before the TICKs, WAKE and RUN after them -/

/-- The state a START accepted in Idle leaves (R126). -/
def started (s : State) (rest : List Turn) : State := { arm { s with agenda := rest } with astate := .capturing }

theorem fillingFirst_started {s : State} (hp : s.params.wf = true) (rest : List Turn) :
    FillingFirst (started s rest) :=
  ⟨hp, rfl, rfl, rfl⟩

/-- START and `L` TICKs, one step each, fill half 0 (R147). -/
theorem run_start_ticks {s : State} {w : Word32} {proto : BitVec 4} {param : BitVec 24} {pins : List Sample}
    (hp : s.params.wf = true) (hidle : s.astate = .idle) (hdec : decode (.cmd32 w) = .start proto param)
    (hlen : pins.length = s.params.half) (hagenda : s.agenda = .cmd w :: pins.map Turn.tick) :
    Host.Core.run Sys2Proof.core (pins.length + 1) s =
      .next (firstHalfFilled (started s (pins.map Turn.tick)) pins) := by
  have hstep : step s = .next (started s (pins.map Turn.tick)) := by
    rw [step_cmd_cons hagenda, hdec]
    exact exec_start_of_idle (s := { s with agenda := pins.map Turn.tick }) hidle proto param
  obtain ⟨-, hhalf⟩ := bufSize_eq hp
  obtain ⟨p, rest, rfl⟩ := List.exists_cons_of_length_pos (hlen ▸ hhalf)
  exact (run_succ_of_step (M := Sys2Proof.core) hstep _).trans
    (run_ticks (fillingFirst_started hp _) rfl ((Nat.zero_add _).trans hlen))

/-- With nothing scheduled and a signal pending, DISPATCH claims the half and runs the decoder `cfg` selects (R160 to
R162). -/
theorem run_wake_run {s : State} (hp : s.params.wf = true) (hagenda : s.agenda = []) (hsig : s.sigPending = true)
    (hrpt : s.rptValid = false) (hbusy : s.decBusy = false) :
    Host.Core.run Sys2Proof.core 2 s = .next (afterRun (decoderOf (decodeTag s.cfg.proto)) (claimHalf s)) := by
  have hwake : step s = .next (claimHalf s) := by
    rw [step_nil_of_not_busy hagenda hbusy, wake_of_enabled hsig hrpt hbusy]
  have hrun : step (claimHalf s) = .next (afterRun (decoderOf (decodeTag s.cfg.proto)) (claimHalf s)) := by
    rw [step_nil_of_busy (s := claimHalf s) hagenda rfl, exec_decodeTag]
    exact runWith_enabled (s := claimHalf s) hp rfl
  exact (run_succ_of_step (M := Sys2Proof.core) hwake 1).trans (run_succ_of_step (M := Sys2Proof.core) hrun 0)

/-- Settles O57: START and the TICKs fill half 0, WAKE claims it and RUN reports it; what the Report says is the closed
form of the half (`reportBytes_afterRun_decodeTag`), which the run keeps. -/
theorem oneStartGivesOneReport : Obligations.OneStartGivesOneReport := by
  intro s w proto param pins hctl hmem _ hidle hrpt hdec hlen hagenda
  obtain ⟨-, -, -, hbusy⟩ := hctl.idleQuiet hidle
  have hfill := run_start_ticks hctl.legal hidle hdec hlen hagenda
  have hdispatch := run_wake_run (s := firstHalfFilled (started s (pins.map Turn.tick)) pins) hctl.legal rfl rfl hrpt
    hbusy
  have hcycle := (run_add_of_run (M := Sys2Proof.core) hfill 2).trans hdispatch
  rw [hlen] at hcycle
  refine ⟨_, hcycle, rfl, rfl, rfl, rfl, rfl, rfl, rfl, rfl, rfl, rfl, fun k hk => ?_, ?_⟩
  · have hread := readCell_storeSamples (width := s.params.sampleWidth) hmem.sbWf 0 pins (0 * s.params.half + k)
    rw [if_pos (by omega), show 0 * s.params.half + k - 0 = k by omega] at hread
    exact hread
  · rw [fullText_afterRun]
    exact reportBytes_afterRun_decodeTag hctl.legal hmem.rbWf hmem.scrWf

end Sys2Proof.Proofs

/-!
PROOFS. The decode dispatcher's RUN (spec/42_dispatcher.md): what it hands over (R164), the diagnostic Report (R165), all
that the Report depends on (R166), the order of the timestamps (R168), and the isolation of a run in flight (R163).
-/
namespace Sys2Proof.Proofs

open Sys2Proof.Machine Sys2Proof.Safety Sys2Proof.Laws

/-! What a run hands over (R164), and the frame of R162 -/

/-- An element at or above the size of a memory is not listed and reads as blank. -/
theorem readCell_of_bound {α : Type} {blank : α} {m : Memory α} {cap a : Nat} (h : ∀ c ∈ m, c.1 < cap)
    (ha : cap ≤ a) : readCell blank m a = blank := by
  induction m with
  | nil => rfl
  | cons c m ih =>
    obtain ⟨hc, hm⟩ := List.forall_mem_cons.1 h
    rw [readCell_cons, if_neg (by omega)]
    exact ih hm

/-- A RUN in flight answers the state after the run of its decoder (R162). -/
theorem exec_run_of_busy {i : Instr} {s : State} (hrun : isRun i = true) (hp : s.params.wf = true)
    (hbusy : s.decBusy = true) : exec i s = .next (afterRun (decoderOf i) s) :=
  (exec_of_isRun hrun s).trans (runWith_enabled hp hbusy)

theorem handedOver_afterRun (d : State → Run → Run) (s : State) : HandedOver s (afterRun d s) := rfl

/-- Settles O27: the run keeps both memories within their sizes (`memoryInv_afterRun`), and only RUN.GPIO writes SCR
(`decoderOf_scr`). -/
theorem runHandsOver : Obligations.RunHandsOver := by
  intro i s hrun hmem hbusy
  have hafter := memoryInv_afterRun hmem i
  refine ⟨_, exec_run_of_busy hrun hmem.legal hbusy, handedOver_afterRun _ s, fun a ha => ?_, fun hgpio => ?_,
    fun a ha => ?_⟩
  · rw [readCell_of_bound hafter.rbBound ha, readCell_of_bound hmem.rbBound ha]
  · exact decoderOf_scr hgpio s _
  · rw [readCell_of_bound hafter.scrBound ha, readCell_of_bound hmem.scrBound ha]

/-! The diagnostic Report (R165) -/

/-- The decoder of an unrecognised tag writes the diagnostic text alone. -/
theorem reportBytes_afterRun_decodeUnknown {s : State} (hrb : Memory.wf blankByte s.rb) :
    reportBytes (afterRun decodeUnknown s) = reportOf s.params unkText :=
  reportBytes_of_wrote (m0 := s.rb) ((wrote_init (r := Run.ofState s) hrb).append unkText)

/-- Settles O33: both rows of RUN.UNK have the decoder of the diagnostic text. -/
theorem unknownTagGivesDiagnostic : Obligations.UnknownTagGivesDiagnostic := by
  intro tag s hmem hbusy
  have hreport := reportBytes_afterRun_decodeUnknown hmem.rbWf
  exact ⟨⟨_, exec_run_of_busy rfl hmem.legal hbusy, handedOver_afterRun _ s, hreport⟩,
    ⟨_, exec_run_of_busy rfl hmem.legal hbusy, handedOver_afterRun _ s, hreport⟩⟩

/-! The isolation of a run in flight (R163) -/

/-- TICK leaves the run in flight. -/
@[simp] theorem advancePointer_inFlight (s : State) :
    (advancePointer s).decBusy = s.decBusy ∧ (advancePointer s).decHalf = s.decHalf := by
  rcases advancePointer_cases s with ⟨-, h⟩ | ⟨-, -, h⟩ | ⟨-, -, h⟩ <;> simp [h]

/-- A turn is the step that takes it when it is scheduled next (R140). -/
theorem step_scheduled (u : Turn) (s : State) : step { s with agenda := u :: s.agenda } = takeTurn u s :=
  step_cons rfl

/-- The Samples of the first half stand at the front of SB (R61). -/
theorem sampleAt_of_first {s : State} (h : s.decHalf = .first) (i : Nat) :
    sampleAt s i = readCell blankSample s.sb i := by
  rw [sampleAt, h, Half.index, Nat.zero_mul, Nat.zero_add]

/-- Settles O49: of the turns that have an effect, only WAKE, which is held, RUN and RESET write what the run in flight
reads from the registers; its Samples are stable (`halfUnderDecodeStable`). -/
theorem snapshotIsolation : Obligations.SnapshotIsolation := by
  intro s t u hctl hmem hbusy hrun hreset h
  have hstep : step { s with agenda := u :: s.agenda } = .next t := (step_scheduled u s).trans h
  have hsb := halfUnderDecodeStable _ t (controlInv_withAgenda hctl (u :: s.agenda))
    (memoryInv_congr hmem rfl rfl rfl rfl) (.inr hbusy) hstep
  obtain ⟨hfirst, -⟩ := hctl.busyFirst hbusy
  have hframe : t.decBusy = true ∧ t.snap = s.snap ∧ t.decHalf = s.decHalf := by
    cases stepCase_of_step hstep with
    | hold | configure | start | take => exact ⟨hbusy, rfl, rfl⟩
    | tick => simpa using hbusy
    | wake _ _ _ hidle => simp [hbusy] at hidle
    | run hturn => simp [dispatchRuns, hrun] at hturn
    | reset hturn => simp [hreset] at hturn
  obtain ⟨hbusy', hsnap, hhalf⟩ := hframe
  refine ⟨hbusy', hsnap, hhalf, fun i hi => ?_⟩
  rw [sampleAt_of_first hfirst, sampleAt_of_first (hhalf.trans hfirst)]
  exact hsb i hi

/-! The order of the timestamps (R168) -/

/-- The times of a list strictly increase, from `lo` on. -/
structure IncreasingFrom {α : Type} (ts : α → Nat) (lo : Nat) (evs : List α) : Prop where
  pairwise : evs.Pairwise fun a b => ts a < ts b
  lower : ∀ e ∈ evs, lo ≤ ts e

section Increasing

variable {α : Type} {ts : α → Nat} {lo k : Nat} {evs : List α}

theorem increasingFrom_nil : IncreasingFrom ts lo [] := ⟨.nil, by simp⟩

theorem IncreasingFrom.mono (h : IncreasingFrom ts k evs) (hlo : lo ≤ k) : IncreasingFrom ts lo evs :=
  ⟨h.pairwise, fun e he => hlo.trans (h.lower e he)⟩

/-- An event before all of a list goes in front of it. -/
theorem IncreasingFrom.cons {e : α} (h : IncreasingFrom ts k evs) (hlo : lo ≤ ts e) (hk : ts e < k) :
    IncreasingFrom ts lo (e :: evs) := by
  have hevs : ∀ x ∈ evs, ts e < ts x := fun x hx => hk.trans_le (h.lower x hx)
  exact ⟨.cons hevs h.pairwise, List.forall_mem_cons.2 ⟨hlo, fun x hx => hlo.trans (hevs x hx).le⟩⟩

end Increasing

/-- The bits of an unfinished SPI byte were seen from index `lo` on and before `i`. -/
def SeenIn (lo i : Nat) (bits : List SpiBit) : Prop := ∀ b ∈ bits, lo ≤ b.at_ ∧ b.at_ < i

theorem seenIn_nil (lo i : Nat) : SeenIn lo i [] := by simp [SeenIn]

theorem SeenIn.next {lo i : Nat} {bits : List SpiBit} (h : SeenIn lo i bits) : SeenIn lo (i + 1) bits :=
  fun b hb => ⟨(h b hb).1, (h b hb).2.trans (Nat.lt_succ_self i)⟩

/-- The bit at the index scanned joins those before. -/
theorem SeenIn.concat {lo i : Nat} {bits : List SpiBit} (h : SeenIn lo i bits) (hlo : lo ≤ i) (s : State) :
    SeenIn lo (i + 1) (bits ++ [spiBitAt s i]) := by
  intro b hb
  rcases List.mem_append.1 hb with hb | hb
  · exact h.next b hb
  · obtain rfl := List.mem_singleton.1 hb
    exact ⟨hlo, Nat.lt_succ_self i⟩

/-- The event of a byte has the index of its first bit (R204). -/
theorem SeenIn.spiEventOf {lo i : Nat} {bits : List SpiBit} (h : SeenIn lo i bits) (hne : bits ≠ []) :
    lo ≤ (spiEventOf bits).ts ∧ (spiEventOf bits).ts < i := by
  cases bits with
  | nil => exact absurd rfl hne
  | cons b bits => exact h b (List.mem_cons_self ..)

/-- SPI events from `lo` on: a byte begins after the one before has ended (R204). -/
theorem spiEventsFrom_increasing {s : State} (n : Nat) :
    ∀ {lo i : Nat} {isOpen : Bool} {bits : List SpiBit}, lo ≤ i → SeenIn lo i bits →
      IncreasingFrom SpiEvent.ts lo (spiEventsFrom s i n isOpen bits) := by
  induction n with
  | zero => exact fun _ _ => increasingFrom_nil
  | succ n ih =>
    intro lo i isOpen bits hlo hbits
    rw [spiEventsFrom_succ n rfl rfl]
    set kept := if fallingEdge s i s.params.chSpiCs then [] else bits with hkept
    have hseen : SeenIn lo i kept := by
      rw [hkept]
      split
      · exact seenIn_nil lo i
      · exact hbits
    have hmore := hseen.concat hlo s
    split
    · split
      · obtain ⟨hfirst, hlast⟩ := hmore.spiEventOf (by simp)
        exact (ih le_rfl (seenIn_nil _ _)).cons hfirst hlast
      · exact ih (by omega) hmore
    · exact ih (by omega) hseen.next

/-- I2C events at index `i` and above: each has the index at which it is found, and one index gives at most one
(R226, R227). -/
theorem i2cEventsFrom_increasing {s : State} (n : Nat) :
    ∀ {i : Nat} {bits : Option (List Bool)}, IncreasingFrom I2cEvent.ts i (i2cEventsFrom s i n bits) := by
  induction n with
  | zero => exact increasingFrom_nil
  | succ n ih =>
    intro i bits
    have hskip : ∀ {bits}, IncreasingFrom I2cEvent.ts i (i2cEventsFrom s (i + 1) n bits) := ih.mono (Nat.le_succ i)
    have hfound : ∀ {e bits}, I2cEvent.ts e = i →
        IncreasingFrom I2cEvent.ts i (e :: i2cEventsFrom s (i + 1) n bits) := fun he =>
      ih.cons he.ge (by omega)
    cases hstart : i2cStartSeen s i with
    | true =>
      rw [i2cEventsFrom_of_start n hstart]
      exact hfound rfl
    | false =>
      cases hstop : i2cStopSeen s i with
      | true =>
        rw [i2cEventsFrom_of_stop n hstart hstop]
        exact hfound rfl
      | false =>
        cases hrise : risingEdge s i s.params.chI2cScl with
        | false =>
          rw [i2cEventsFrom_of_quiet n hstart hstop hrise]
          exact hskip
        | true =>
          cases bits with
          | none =>
            rw [i2cEventsFrom_of_idle n hstart hstop]
            exact hskip
          | some bs =>
            rw [i2cEventsFrom_of_edge n hstart hstop hrise]
            split
            · exact hfound rfl
            split
            · exact hfound rfl
            · exact hskip

/-- UART events at index `i` and above: the search goes on after the stop bit (R246, R251). -/
theorem uartEventsFrom_increasing {s : State} (fuel : Nat) :
    ∀ {i : Nat}, IncreasingFrom UartEvent.ts i (uartEventsFrom s fuel i) := by
  induction fuel with
  | zero => exact increasingFrom_nil
  | succ fuel ih =>
    intro i
    by_cases hi : i < s.params.half
    · cases hfall : fallingEdge s i s.params.chUartRx with
      | true =>
        rw [uartEventsFrom_of_start hi hfall, uartEventsOfFrame]
        split
        · exact ih.cons (Nat.le_refl i) ((lt_samplePoint s i 8).trans (Nat.lt_succ_self _))
        · exact increasingFrom_nil
      | false =>
        rw [uartEventsFrom_of_quiet hi hfall]
        exact ih.mono (Nat.le_succ i)
    · rw [uartEventsFrom_of_le (by omega)]
      exact increasingFrom_nil

/-- The transitions of a channel are found at rising indices (R186). -/
theorem gpioTransitions_pairwise (s : State) (c : Nat) : (gpioTransitions s c).Pairwise fun a b => a.1 < b.1 :=
  List.pairwise_map.2 (List.Pairwise.filter _ List.pairwise_lt_range')

/-- Settles O38: one scan of the half for each decoder, at rising indices. -/
theorem timestampsIncrease : Obligations.TimestampsIncrease := by
  intro s
  exact ⟨(spiEventsFrom_increasing _ le_rfl (seenIn_nil 1 1)).pairwise, (i2cEventsFrom_increasing _).pairwise,
    (uartEventsFrom_increasing _).pairwise, gpioTransitions_pairwise s⟩

/-! What the Report depends on (R166, R169): where `fullText_congr` asks for the whole snapshot and every level, the closed
form reads the tag and the baud rate alone, and the eight channels at the indices of the half -/

/-- `t` gives a run the inputs that `s` gives it (R166). -/
structure SameInputs (s t : State) : Prop where
  params : t.params = s.params
  proto : t.snap.proto = s.snap.proto
  uartBaud : t.snap.uartBaud = s.snap.uartBaud
  levels : ∀ i k, i < s.params.half → k < 8 → level t i k = level s i k

section Inputs

variable {s t : State} {i : Nat}

theorem SameInputs.levels_before (h : SameInputs s t) (hi : i < s.params.half) {k : Nat} (hk : k < 8) :
    level t (i - 1) k = level s (i - 1) k :=
  h.levels (i - 1) k (by omega) hk

theorem SameInputs.risingEdge_congr (h : SameInputs s t) (hi : i < s.params.half) (k : Fin 8) :
    risingEdge t i k = risingEdge s i k := by
  rw [risingEdge, risingEdge, h.levels i k hi k.isLt, h.levels_before hi k.isLt]

theorem SameInputs.fallingEdge_congr (h : SameInputs s t) (hi : i < s.params.half) (k : Fin 8) :
    fallingEdge t i k = fallingEdge s i k := by
  rw [fallingEdge, fallingEdge, h.levels i k hi k.isLt, h.levels_before hi k.isLt]

/-- The transitions of one of the eight channels (R181). -/
theorem SameInputs.gpioTransitions_congr (h : SameInputs s t) {c : Nat} (hc : c < channelCount) :
    gpioTransitions t c = gpioTransitions s c := by
  have hinside : ∀ i ∈ scanIndices s, i < s.params.half := by
    intro i hi
    obtain ⟨hpos, hlt⟩ := List.mem_range'_1.1 hi
    omega
  have hindices : scanIndices t = scanIndices s := by rw [scanIndices, scanIndices, h.params]
  rw [gpioTransitions, gpioTransitions, hindices, List.filter_congr fun i hi => ?_]
  · exact List.map_congr_left fun i hi => by rw [h.levels i c (hinside i (List.mem_of_mem_filter hi)) hc]
  · rw [h.levels i c (hinside i hi) hc, h.levels_before (hinside i hi) hc]

theorem SameInputs.gpioEntry_congr (h : SameInputs s t) (hhalf : 0 < s.params.half) {c : Nat} (hc : c < channelCount) :
    gpioEntry t c = gpioEntry s c := by
  have hinitial : gpioInitialPairs t c = gpioInitialPairs s c := by
    rw [gpioInitialPairs, gpioInitialPairs, h.levels 0 0 hhalf (by decide)]
  rw [gpioEntry, gpioEntry, gpioScratchText_eq, gpioScratchText_eq, hinitial, h.gpioTransitions_congr hc, h.params]

theorem SameInputs.gpioText_congr (h : SameInputs s t) (hhalf : 0 < s.params.half) : gpioText t = gpioText s := by
  have hentries : gpioEntries t (List.range' 0 channelCount) = gpioEntries s (List.range' 0 channelCount) := by
    have hchan : ∀ c ∈ List.range' 0 channelCount, c < channelCount := fun c hc => by
      simpa using (List.mem_range'_1.1 hc).2
    rw [gpioEntries, gpioEntries, List.filter_congr fun c hc => by rw [h.gpioTransitions_congr (hchan c hc)]]
    exact List.map_congr_left fun c hc => h.gpioEntry_congr hhalf (hchan c (List.mem_of_mem_filter hc))
  rw [gpioText_eq, gpioText_eq, hentries]

theorem SameInputs.spiEventsFrom_congr (h : SameInputs s t) (n : Nat) :
    ∀ {i} (isOpen : Bool) (bits : List SpiBit), i + n ≤ s.params.half →
      spiEventsFrom t i n isOpen bits = spiEventsFrom s i n isOpen bits := by
  induction n with
  | zero => exact fun _ _ _ => rfl
  | succ n ih =>
    intro i isOpen bits hin
    have hi : i < s.params.half := by omega
    have hbit : spiBitAt t i = spiBitAt s i := by
      rw [spiBitAt, spiBitAt, h.params, h.levels i _ hi (Fin.isLt _), h.levels i _ hi (Fin.isLt _)]
    rw [spiEventsFrom_succ n rfl rfl, spiEventsFrom_succ n rfl rfl, h.params, h.fallingEdge_congr hi,
      h.risingEdge_congr hi, h.risingEdge_congr hi, hbit]
    simp only [ih _ _ (show i + 1 + n ≤ s.params.half by omega)]

theorem SameInputs.i2cEventsFrom_congr (h : SameInputs s t) (n : Nat) :
    ∀ {i} (bits : Option (List Bool)), i + n ≤ s.params.half →
      i2cEventsFrom t i n bits = i2cEventsFrom s i n bits := by
  induction n with
  | zero => exact fun _ _ => rfl
  | succ n ih =>
    intro i bits hin
    have hi : i < s.params.half := by omega
    have hlevel : ∀ k : Fin 8, level t i k = level s i k := fun k => h.levels i k hi k.isLt
    have hbefore : ∀ k : Fin 8, level t (i - 1) k = level s (i - 1) k := fun k => h.levels_before hi k.isLt
    have hrest : ∀ bits, i2cEventsFrom t (i + 1) n bits = i2cEventsFrom s (i + 1) n bits := fun bits =>
      ih bits (by omega)
    cases bits <;> simp only [i2cEventsFrom, h.params, hlevel, hbefore, hrest]

theorem SameInputs.samplePoint_congr (h : SameInputs s t) (e k : Nat) : samplePoint t e k = samplePoint s e k := by
  simp only [samplePoint, bitPeriod, h.params, h.uartBaud]

/-- A frame whose stop bit lies in the half is read inside the half (R250). -/
theorem SameInputs.uartFrame_congr (h : SameInputs s t) {e : Nat} (he : samplePoint s e 8 < s.params.half) :
    uartFrame t e = uartFrame s e := by
  have hlevel : ∀ k ≤ 8, level t (samplePoint s e k) s.params.chUartRx =
      level s (samplePoint s e k) s.params.chUartRx := fun k hk =>
    h.levels _ _ ((samplePoint_le s e hk).trans_lt he) (Fin.isLt _)
  have hbits : (List.range 8).map (fun k => level t (samplePoint s e k) s.params.chUartRx) =
      (List.range 8).map (fun k => level s (samplePoint s e k) s.params.chUartRx) :=
    List.map_congr_left fun k hk => hlevel k (List.mem_range.1 hk).le
  simp only [uartFrame, h.samplePoint_congr, h.params, hbits, hlevel 8 le_rfl]

theorem SameInputs.uartEventsFrom_congr (h : SameInputs s t) (fuel : Nat) :
    ∀ i, uartEventsFrom t fuel i = uartEventsFrom s fuel i := by
  have hhalf : t.params.half = s.params.half := by rw [h.params]
  induction fuel with
  | zero => exact fun _ => rfl
  | succ fuel ih =>
    intro i
    by_cases hi : i < s.params.half
    · have hedge : fallingEdge t i t.params.chUartRx = fallingEdge s i s.params.chUartRx := by
        rw [h.params, h.fallingEdge_congr hi]
      cases hfall : fallingEdge s i s.params.chUartRx with
      | true =>
        rw [uartEventsFrom_of_start (hhalf ▸ hi) (hedge.trans hfall), uartEventsFrom_of_start hi hfall,
          uartEventsOfFrame, uartEventsOfFrame, h.samplePoint_congr, hhalf, ih]
        split
        · rename_i hstop
          rw [h.uartFrame_congr hstop]
        · rfl
      | false =>
        rw [uartEventsFrom_of_quiet (hhalf ▸ hi) (hedge.trans hfall), uartEventsFrom_of_quiet hi hfall, ih]
    · rw [uartEventsFrom_of_le (by omega), uartEventsFrom_of_le (by omega)]

/-- The text of a run depends on its inputs alone (R166). -/
theorem SameInputs.fullText_congr (h : SameInputs s t) (hhalf : 0 < s.params.half) : fullText t = fullText s := by
  have hspi : spiEvents t = spiEvents s := by
    rw [spiEvents, spiEvents, h.params, h.spiEventsFrom_congr _ _ _ (by omega)]
  have hi2c : i2cEvents t = i2cEvents s := by
    rw [i2cEvents, i2cEvents, h.params, h.i2cEventsFrom_congr _ _ (by omega)]
  have huart : uartEvents t = uartEvents s := by rw [uartEvents, uartEvents, h.params, h.uartEventsFrom_congr]
  simp only [fullText, h.proto, h.gpioText_congr hhalf, spiText, hspi, i2cText, hi2c, uartText, huart]

end Inputs

/-- The Report's length is that of its bytes (R62). -/
theorem rptLen_eq_length (s : State) : s.rptLen = (reportBytes s).length := (readBytes_length _ _ _).symm

/-- The RUN turn of a run in flight gives the Report of its text (R162). -/
theorem runTurn_reports {s : State} (hmem : MemoryInv s) (hbusy : s.decBusy = true) :
    ∃ t, runTurn s = .next t ∧ reportBytes t = reportOf s.params (fullText s) :=
  ⟨_, by rw [runTurn_of_busy hbusy, exec_decodeTag, runWith_enabled hmem.legal hbusy],
    reportBytes_afterRun_decodeTag hmem.legal hmem.rbWf hmem.scrWf⟩

/-- Settles O34: the Report is that of the run's text, and the text is the same for the same inputs. -/
theorem reportDependsOnInputsOnly : Obligations.ReportDependsOnInputsOnly := by
  intro s1 s2 hmem1 hmem2 hbusy1 hbusy2 hparams hproto hbaud hlevel
  have hsame : SameInputs s1 s2 :=
    ⟨hparams.symm, hproto.symm, hbaud.symm, fun i k hi hk => (hlevel i k hi hk).symm⟩
  obtain ⟨-, hhalf⟩ := bufSize_eq hmem1.legal
  obtain ⟨t1, hrun1, hreport1⟩ := runTurn_reports hmem1 hbusy1
  obtain ⟨t2, hrun2, hreport2⟩ := runTurn_reports hmem2 hbusy2
  have hreport : reportBytes t1 = reportBytes t2 := by
    rw [hreport1, hreport2, hsame.fullText_congr hhalf, hparams]
  exact ⟨t1, t2, hrun1, hrun2, by rw [rptLen_eq_length, rptLen_eq_length, hreport], hreport⟩

end Sys2Proof.Proofs

/-!
PROOFS. RUN.GPIO's statements (spec/43_gpio.md): its Report is the bounded closed form (R186), and its waveform lists
replay to their channels, increase and alternate, and are empty for constant channels (R187).
-/
namespace Sys2Proof.Proofs

open Sys2Proof.Machine Sys2Proof.Safety Sys2Proof.Laws

/-- Settles O29: the decoder of RUN.GPIO writes the closed form (`wrote_decodeGpio`), and the run hands it over. -/
theorem gpioReportIsClosedForm : Obligations.GpioReportIsClosedForm := by
  intro s hmem hbusy
  exact ⟨_, exec_run_of_busy rfl hmem.legal hbusy, handedOver_afterRun _ s,
    reportBytes_of_wrote (wrote_decodeGpio hmem.rbWf hmem.scrWf)⟩

/-! Replaying a list of records (R187 (1)) -/

/-- A record replaces the level from its index on. -/
theorem replay_cons (b : Bool) (x : Nat × Bool) (pairs : List (Nat × Bool)) (i : Nat) :
    replay b (x :: pairs) i = replay (if x.1 ≤ i then x.2 else b) pairs i := rfl

/-- Records after index `i` do not count at `i`. -/
theorem replay_of_later {pairs : List (Nat × Bool)} {i : Nat} (h : ∀ x ∈ pairs, i < x.1) (b : Bool) :
    replay b pairs i = b := by
  induction pairs with
  | nil => rfl
  | cons x pairs ih =>
    obtain ⟨hx, hpairs⟩ := List.forall_mem_cons.1 h
    rw [replay_cons, if_neg (by omega)]
    exact ih hpairs

/-! The transitions of a channel -/

section Transitions

variable {s : State} {c i : Nat}

/-- The transitions of a channel are those at the indices from 1 on (R181). -/
theorem gpioTransitions_eq (s : State) (c : Nat) :
    gpioTransitions s c = gpioTransitionsFrom s c (0 + 1) (s.params.half - 1) := rfl

theorem mem_gpioTransitionsFrom {n : Nat} {x : Nat × Bool} :
    x ∈ gpioTransitionsFrom s c i n ↔
      (i ≤ x.1 ∧ x.1 < i + n) ∧ transition s x.1 c = true ∧ x.2 = level s x.1 c := by
  obtain ⟨k, b⟩ := x
  simp only [gpioTransitionsFrom, List.mem_map, List.mem_filter, List.mem_range'_1, Prod.mk.injEq]
  constructor
  · rintro ⟨_, ⟨hrange, htr⟩, rfl, rfl⟩
    exact ⟨hrange, htr, rfl⟩
  · rintro ⟨hrange, htr, rfl⟩
    exact ⟨k, ⟨hrange, htr⟩, rfl, rfl⟩

/-- A channel's transitions lie inside the half, after index 0 (R181). -/
theorem inside_of_mem_gpioTransitions {x : Nat × Bool} (h : x ∈ gpioTransitions s c) :
    1 ≤ x.1 ∧ x.1 < s.params.half ∧ transition s x.1 c = true := by
  rw [gpioTransitions_eq] at h
  obtain ⟨⟨hpos, hlt⟩, htr, -⟩ := mem_gpioTransitionsFrom.1 h
  exact ⟨hpos, by omega, htr⟩

/-- A transition replaces the level by its complement (R181). -/
theorem level_ne_of_transition (h : transition s (i + 1) c = true) : level s i c ≠ level s (i + 1) c :=
  (bne_iff_ne.1 h).symm

/-- Where there is no transition the level stays (R181). -/
theorem level_eq_of_quiet (h : transition s (i + 1) c = false) : level s i c = level s (i + 1) c :=
  (bne_eq_false_iff_eq.1 h).symm

/-- A channel that keeps its initial level has no transition (R187 (5)). -/
theorem gpioTransitions_of_constant (h : ∀ i, i < s.params.half → level s i c = level s 0 c) :
    gpioTransitions s c = [] := by
  refine List.eq_nil_iff_forall_not_mem.2 fun x hx => ?_
  obtain ⟨-, hlt, htr⟩ := inside_of_mem_gpioTransitions hx
  have hsame : level s x.1 c = level s (x.1 - 1) c := (h _ hlt).trans (h _ (by omega)).symm
  exact bne_iff_ne.1 htr hsame

/-- The transitions after index `i`, replayed from the level at `i`, give every later level. -/
theorem replay_gpioTransitionsFrom (n : Nat) :
    ∀ {i j : Nat}, i ≤ j → j ≤ i + n →
      replay (level s i c) (gpioTransitionsFrom s c (i + 1) n) j = level s j c := by
  induction n with
  | zero =>
    intro i j hij hjn
    obtain rfl : i = j := by omega
    rfl
  | succ n ih =>
    intro i j hij hjn
    rcases hij.eq_or_lt with rfl | hlt
    · refine replay_of_later (fun x hx => ?_) _
      obtain ⟨⟨hlater, -⟩, -⟩ := mem_gpioTransitionsFrom.1 hx
      exact hlater
    · have hnext : i + 1 ≤ j := hlt
      have hrest := ih hnext (by omega)
      rw [gpioTransitionsFrom_succ]
      cases htr : transition s (i + 1) c with
      | true => rwa [if_pos rfl, replay_cons, if_pos hnext]
      | false => rwa [if_neg Bool.false_ne_true, level_eq_of_quiet htr]

/-- The level at index `i` and those of the transitions after it alternate. -/
theorem gpioTransitionsFrom_alternate (n : Nat) :
    ∀ {i : Nat}, List.IsChain (· ≠ ·) (level s i c :: (gpioTransitionsFrom s c (i + 1) n).map Prod.snd) := by
  induction n with
  | zero => exact List.isChain_singleton _
  | succ n ih =>
    intro i
    rw [gpioTransitionsFrom_succ]
    cases htr : transition s (i + 1) c with
    | true => exact .cons_cons (level_ne_of_transition htr) ih
    | false =>
      rw [level_eq_of_quiet htr]
      exact ih

/-- The initial level and the levels of a channel's transitions alternate (R187 (3), (4)). -/
theorem gpioTransitions_alternate (s : State) (c : Nat) :
    List.IsChain (· ≠ ·) (level s 0 c :: (gpioTransitions s c).map Prod.snd) := by
  rw [gpioTransitions_eq]
  exact gpioTransitionsFrom_alternate _

/-- A channel's transitions, replayed from its initial level, give its levels (R187 (1)). -/
theorem replay_gpioTransitions (hi : i < s.params.half) :
    replay (level s 0 c) (gpioTransitions s c) i = level s i c := by
  rw [gpioTransitions_eq]
  exact replay_gpioTransitionsFrom _ (Nat.zero_le i) (by omega)

/-- The index-0 record of channel 0 stands for any initial level (R184). -/
theorem replay_gpioPairs_zero (hi : i < s.params.half) (b : Bool) : replay b (gpioPairs s 0) i = level s i 0 := by
  have hpairs : gpioPairs s 0 = (0, level s 0 0) :: gpioTransitions s 0 := rfl
  rw [hpairs, replay_cons, if_pos (Nat.zero_le i), replay_gpioTransitions hi]

/-- The initial level is the complement of the first transition's (R184). -/
theorem level_zero_of_head? {x : Nat × Bool} (h : (gpioTransitions s c).head? = some x) : level s 0 c = !x.2 := by
  have halternate := gpioTransitions_alternate s c
  obtain ⟨rest, hcons⟩ := List.head?_eq_some_iff.1 h
  rw [hcons] at halternate
  exact Bool.eq_not_of_ne (List.isChain_cons_cons.1 halternate).1

/-- Of two neighbouring transitions the second comes later and goes to the other level (R187 (3), (4)). -/
theorem gpioTransitions_neighbours {k : Nat} {x y : Nat × Bool} (hx : (gpioTransitions s c)[k]? = some x)
    (hy : (gpioTransitions s c)[k + 1]? = some y) : 1 ≤ x.1 ∧ x.1 < y.1 ∧ x.2 ≠ y.2 := by
  obtain ⟨hk, rfl⟩ := List.getElem?_eq_some_iff.1 hx
  obtain ⟨hk', rfl⟩ := List.getElem?_eq_some_iff.1 hy
  obtain ⟨hpos, -, -⟩ := inside_of_mem_gpioTransitions (List.getElem_mem hk)
  refine ⟨hpos, List.pairwise_iff_getElem.1 (gpioTransitions_pairwise s c) _ _ hk hk' k.lt_succ_self, ?_⟩
  have halternate := List.isChain_iff_getElem.1 (gpioTransitions_alternate s c).tail k (by simpa using hk')
  simpa using halternate

end Transitions

/-- Settles O36: the transitions are found by one pass over the half, each where the level changes. -/
theorem gpioWaveformProperties : Obligations.GpioWaveformProperties := by
  intro s c
  exact ⟨fun _ => replay_gpioTransitions, fun b _ hi => replay_gpioPairs_zero hi b, fun _ => level_zero_of_head?,
    gpioTransitions_of_constant, fun _ _ _ => gpioTransitions_neighbours⟩

/-- With no channel changing, no channel has an entry in the waveform (R185, R187 (2)). -/
theorem gpioText_of_constant {s : State} (h : ∀ i c, i < s.params.half → c < 8 → level s i c = level s 0 c) :
    gpioText s = headGpio ++ tailGpio := by
  have hentries : gpioEntries s (List.range' 0 channelCount) = [] := by
    refine List.map_eq_nil_iff.2 (List.filter_eq_nil_iff.2 fun c hc => ?_)
    have hchan : c < 8 := by simpa [channelCount] using (List.mem_range'_1.1 hc).2
    simp [gpioTransitions_of_constant fun i hi => h i c hi hchan]
  rw [gpioText_eq, hentries, joinComma, List.append_nil]

/-- Settles O37: the Report is the closed form, and that has no entry. -/
theorem constantHalfGivesEmptyWaveform : Obligations.ConstantHalfGivesEmptyWaveform := by
  intro s hmem hbusy hconstant
  obtain ⟨t, hexec, -, hreport⟩ := gpioReportIsClosedForm s hmem hbusy
  exact ⟨t, hexec, hreport.trans (congrArg _ (gpioText_of_constant hconstant))⟩

end Sys2Proof.Proofs

/-!
PROOFS. RUN.SPI's statements (spec/44_spi.md): its Report is the bounded closed form (R208), an event's bytes are eight
bits each (R205), and two clock rises are at least two indices apart, so that a byte begins at least sixteen indices after
the one before it (R207 (f)).
-/
namespace Sys2Proof.Proofs

open Sys2Proof.Machine Sys2Proof.Safety Sys2Proof.Laws

/-- Settles O30: the decoder of RUN.SPI writes the closed form (`wrote_decodeSpi`), and the run hands it over. -/
theorem spiReportIsClosedForm : Obligations.SpiReportIsClosedForm := by
  intro s hmem hbusy
  exact ⟨_, exec_run_of_busy rfl hmem.legal hbusy, handedOver_afterRun _ s,
    reportBytes_of_wrote (wrote_decodeSpi hmem.rbWf)⟩

/-! The two bytes of an event (R205) -/

/-- Every SPI event is that of eight bits (R204). -/
theorem eight_bits_of_mem_spiEventsFrom {s : State} {e : SpiEvent} (n : Nat) :
    ∀ {i : Nat} {isOpen : Bool} {bits : List SpiBit}, e ∈ spiEventsFrom s i n isOpen bits →
      ∃ byte : List SpiBit, byte.length = 8 ∧ e = spiEventOf byte := by
  induction n with
  | zero => exact fun he => absurd he List.not_mem_nil
  | succ n ih =>
    intro i isOpen bits he
    rw [spiEventsFrom_succ n rfl rfl] at he
    generalize (if fallingEdge s i s.params.chSpiCs then [] else bits) = kept at he
    split at he
    · split at he
      case isTrue hfull =>
        rcases List.mem_cons.1 he with rfl | he
        · exact ⟨_, hfull, rfl⟩
        · exact ih he
      case isFalse => exact ih he
    · exact ih he

/-- Eight bits make a byte on each line (R205). -/
theorem spiEventOf_bytes {byte : List SpiBit} (h : byte.length = 8) :
    (spiEventOf byte).mosi ≤ 255 ∧ (spiEventOf byte).miso ≤ 255 := by
  have hmosi := msbFirst_lt (byte.map SpiBit.mosi)
  have hmiso := msbFirst_lt (byte.map SpiBit.miso)
  rw [List.length_map, h] at hmosi hmiso
  exact ⟨Nat.le_of_lt_succ hmosi, Nat.le_of_lt_succ hmiso⟩

/-! The room the events take (R205, R207 (f)) -/

/-- The events lie from `lo` on and before `stop`, one after the other: fifteen indices for each, and one between two. -/
structure PackedIn (lo stop : Nat) (evs : List SpiEvent) : Prop where
  within : ∀ e ∈ evs, lo ≤ e.ts ∧ e.ts + 15 ≤ stop
  room : lo + 16 * evs.length ≤ stop + 1

section Packed

variable {lo k stop : Nat} {evs : List SpiEvent}

theorem packedIn_nil (h : lo ≤ stop + 1) : PackedIn lo stop [] := ⟨by simp, h⟩

theorem PackedIn.mono (h : PackedIn k stop evs) (hlo : lo ≤ k) : PackedIn lo stop evs :=
  ⟨fun e he => ⟨hlo.trans (h.within e he).1, (h.within e he).2⟩, by have := h.room; omega⟩

/-- An event sixteen indices before all of a list goes in front of it. -/
theorem PackedIn.cons {e : SpiEvent} (h : PackedIn k stop evs) (hk : e.ts + 16 ≤ k) :
    PackedIn e.ts stop (e :: evs) := by
  have hroom := h.room
  refine ⟨List.forall_mem_cons.2 ⟨⟨le_rfl, by omega⟩, (h.mono (by omega)).within⟩, ?_⟩
  rw [List.length_cons]
  omega

end Packed

/-- The first index from `i` on at which the clock can rise: a clock that is high has to fall first. -/
def spiNextRise (s : State) (i : Nat) : Nat := if level s (i - 1) s.params.chSpiClk then i + 1 else i

/-- Where the byte under way began, or where it can begin at the earliest. -/
def spiByteStart (s : State) (i : Nat) (bits : List SpiBit) : Nat := (bits.map SpiBit.at_).headD (spiNextRise s i)

/-- The bits of the byte under way were taken two indices apart, and the next comes as late. -/
def SpacedBits (s : State) (i : Nat) (bits : List SpiBit) : Prop :=
  spiByteStart s i bits + 2 * bits.length ≤ spiNextRise s i

section Spacing

variable {s : State} {i : Nat} {bits : List SpiBit}

theorem spiNextRise_bounds (s : State) (i : Nat) : i ≤ spiNextRise s i ∧ spiNextRise s i ≤ i + 1 := by
  unfold spiNextRise
  split <;> omega

theorem spiNextRise_le_succ (s : State) (i : Nat) : spiNextRise s i ≤ spiNextRise s (i + 1) :=
  (spiNextRise_bounds s i).2.trans (spiNextRise_bounds s (i + 1)).1

/-- Where the clock rises it was low, so that it can rise there, and is high, so that it cannot rise at the next index. -/
theorem spiNextRise_of_rise (h : risingEdge s i s.params.chSpiClk = true) :
    spiNextRise s i = i ∧ spiNextRise s (i + 1) = i + 2 := by
  obtain ⟨hlow, hhigh⟩ := Bool.and_eq_true_iff.1 h
  exact ⟨if_neg (by simpa using hlow), if_pos hhigh⟩

/-- The event of a whole byte has the index at which the byte began (R204). -/
theorem spiEventOf_ts (hne : bits ≠ []) : (spiEventOf bits).ts = spiByteStart s i bits := by
  cases bits with
  | nil => exact absurd rfl hne
  | cons b bits => rfl

theorem spiByteStart_le_succ (s : State) (i : Nat) (bits : List SpiBit) :
    spiByteStart s i bits ≤ spiByteStart s (i + 1) bits := by
  cases bits with
  | nil => exact spiNextRise_le_succ s i
  | cons b bits => exact le_rfl

theorem spacedBits_nil (s : State) (i : Nat) : SpacedBits s i [] := le_rfl

theorem SpacedBits.start_le (h : SpacedBits s i bits) : spiByteStart s i bits ≤ spiNextRise s i :=
  (Nat.le_add_right _ _).trans h

/-- A chip-select fall empties the byte under way, so that it begins later (R202). -/
theorem SpacedBits.clear (h : SpacedBits s i bits) (fall : Bool) :
    SpacedBits s i (if fall then [] else bits) ∧
      spiByteStart s i bits ≤ spiByteStart s i (if fall then [] else bits) := by
  cases fall with
  | true => exact ⟨spacedBits_nil s i, h.start_le⟩
  | false => exact ⟨h, le_rfl⟩

/-- At an index without a bit the byte under way stays as it is. -/
theorem SpacedBits.next (h : SpacedBits s i bits) : SpacedBits s (i + 1) bits := by
  cases bits with
  | nil => exact spacedBits_nil s (i + 1)
  | cons b bits => exact h.trans (spiNextRise_le_succ s i)

/-- The first bit of a byte is taken where the byte begins (R204). -/
theorem spiByteStart_concat (hrise : risingEdge s i s.params.chSpiClk = true) (j : Nat) :
    spiByteStart s j (bits ++ [spiBitAt s i]) = spiByteStart s i bits := by
  cases bits with
  | nil => exact (spiNextRise_of_rise hrise).1.symm
  | cons b bits => rfl

/-- A bit taken at a clock rise is two indices before the next (R204). -/
theorem SpacedBits.concat (h : SpacedBits s i bits) (hrise : risingEdge s i s.params.chSpiClk = true) :
    SpacedBits s (i + 1) (bits ++ [spiBitAt s i]) := by
  obtain ⟨hhere, hnext⟩ := spiNextRise_of_rise hrise
  unfold SpacedBits at h ⊢
  rw [spiByteStart_concat hrise, List.length_append, List.length_singleton]
  omega

end Spacing

/-- The events of a scan lie between the byte under way and the last index scanned (R207 (f)). -/
theorem spiEventsFrom_packed {s : State} (n : Nat) :
    ∀ {i : Nat} {isOpen : Bool} {bits : List SpiBit}, SpacedBits s i bits →
      PackedIn (spiByteStart s i bits) (i + n) (spiEventsFrom s i n isOpen bits) := by
  induction n with
  | zero => exact fun {i} _ _ hbits => packedIn_nil (hbits.start_le.trans (spiNextRise_bounds s i).2)
  | succ n ih =>
    intro i isOpen bits hbits
    obtain ⟨hspaced, hstart⟩ := hbits.clear (fallingEdge s i s.params.chSpiCs)
    rw [spiEventsFrom_succ n rfl rfl, show i + (n + 1) = i + 1 + n by omega]
    generalize (if fallingEdge s i s.params.chSpiCs then [] else bits) = kept at hspaced hstart ⊢
    refine PackedIn.mono ?_ hstart
    split
    case isFalse => exact (ih hspaced.next).mono (spiByteStart_le_succ s i kept)
    case isTrue hedge =>
      have hrise := (Bool.and_eq_true_iff.1 hedge).2
      have hmore := hspaced.concat hrise
      rw [← spiByteStart_concat hrise (i + 1)]
      split
      case isFalse => exact ih hmore
      case isTrue hfull =>
        have hts : (spiEventOf (kept ++ [spiBitAt s i])).ts = spiByteStart s (i + 1) (kept ++ [spiBitAt s i]) :=
          spiEventOf_ts (by simp)
        unfold SpacedBits at hmore
        rw [hfull, ← hts] at hmore
        rw [← hts]
        exact (ih (spacedBits_nil s (i + 1))).cons hmore

/-- The events of a half lie between index 1 and its end. -/
theorem spiEvents_packed (s : State) : PackedIn 1 (1 + (s.params.half - 1)) (spiEvents s) :=
  (spiEventsFrom_packed _ (spacedBits_nil s 1)).mono (spiNextRise_bounds s 1).1

/-- Settles O39: an event is that of eight bits, and the events of the half share out its indices. -/
theorem spiEventBounds : Obligations.SpiEventBounds := by
  intro s
  obtain ⟨hwithin, hroom⟩ := spiEvents_packed s
  refine ⟨fun e he => ?_, by omega⟩
  obtain ⟨hts, hend⟩ := hwithin e he
  obtain ⟨byte, hbyte, rfl⟩ := eight_bits_of_mem_spiEventsFrom _ he
  exact ⟨hts, by omega, spiEventOf_bytes hbyte⟩

end Sys2Proof.Proofs

/-!
PROOFS. RUN.I2C's statement (spec/45_i2c.md): its Report is the bounded closed form (R228).
-/
namespace Sys2Proof.Proofs

open Sys2Proof.Machine Sys2Proof.Safety Sys2Proof.Laws

/-- Settles O31: the decoder of RUN.I2C writes the closed form (`wrote_decodeI2c`: the scan emits R222's START,
R223's STOP, R224's bytes and R225's acknowledgements), and the run hands it over. -/
theorem i2cReportIsClosedForm : Obligations.I2cReportIsClosedForm := by
  intro s hmem hbusy
  have hwrote : Wrote s.params s.rb (decodeI2c s (initRun (Run.ofState s))) (i2cText s) := wrote_decodeI2c hmem.rbWf
  exact ⟨_, exec_run_of_busy rfl hmem.legal hbusy, handedOver_afterRun _ s, reportBytes_of_wrote hwrote⟩

end Sys2Proof.Proofs

/-!
PROOFS. RUN.UART's statements (spec/46_uart.md): its Report is the bounded closed form of its frames (R251), which reads the
bit period and the line alone, so that a bit period of 0 acts as 1 (R247); a frame is reported with its stop bit inside the
half, and takes ten indices of it at least (R250 (a), (g)).
-/
namespace Sys2Proof.Proofs

open Sys2Proof.Machine Sys2Proof.Safety Sys2Proof.Laws

/-! The Report (R251) -/

/-- The run of RUN.UART leaves the Report of its closed form, whatever the bit period. -/
theorem reportBytes_afterRun_decodeUart {s : State} (hmem : MemoryInv s) :
    reportBytes (afterRun decodeUart s) = reportOf s.params (uartText s) :=
  reportBytes_of_wrote (wrote_decodeUart hmem.legal hmem.rbWf)

/-- Settles O32: the decoder of RUN.UART writes the closed form (`wrote_decodeUart`), and the run hands it over. The baud
rate plays no part: machine and closed form make the same division (R241). -/
theorem uartReportIsClosedForm : Obligations.UartReportIsClosedForm := by
  intro s hmem _ hbusy
  exact ⟨_, exec_run_of_busy rfl hmem.legal hbusy, handedOver_afterRun _ s, reportBytes_afterRun_decodeUart hmem⟩

/-! What the closed form reads (R247): where `SameInputs` asks for the baud rate and all eight channels, the bit period and
the line received are enough -/

/-- `t` gives RUN.UART the parameters, the bit period and the line that `s` gives it. -/
structure SameLine (s t : State) : Prop where
  params : t.params = s.params
  period : bitPeriod t = bitPeriod s
  line : ∀ i, i < s.params.half → uartRx t i = uartRx s i

section Line

variable {s t : State}

theorem SameLine.samplePoint_congr (h : SameLine s t) (e k : Nat) : samplePoint t e k = samplePoint s e k := by
  simp only [samplePoint, h.period]

theorem SameLine.fallingEdge_congr (h : SameLine s t) {i : Nat} (hi : i < s.params.half) :
    fallingEdge t i t.params.chUartRx = fallingEdge s i s.params.chUartRx :=
  congrArg₂ (fun before now => before && !now) (h.line (i - 1) (by omega)) (h.line i hi)

/-- The frame of a start edge is its nine readings of the line (R245, R246). -/
theorem uartFrame_eq (s : State) (e : Nat) :
    uartFrame s e = ⟨e, lsbFirst ((List.range 8).map fun k => uartRx s (samplePoint s e k)),
      !uartRx s (samplePoint s e 8)⟩ := rfl

theorem SameLine.uartFrame_congr (h : SameLine s t) {e : Nat} (he : samplePoint s e 8 < s.params.half) :
    uartFrame t e = uartFrame s e := by
  have hread : ∀ k ≤ 8, uartRx t (samplePoint t e k) = uartRx s (samplePoint s e k) := fun k hk => by
    rw [h.samplePoint_congr, h.line _ ((samplePoint_le s e hk).trans_lt he)]
  rw [uartFrame_eq, uartFrame_eq, hread 8 le_rfl,
    List.map_congr_left fun k hk => hread k (List.mem_range.1 hk).le]

theorem SameLine.uartEventsFrom_congr (h : SameLine s t) (fuel : Nat) :
    ∀ i, uartEventsFrom t fuel i = uartEventsFrom s fuel i := by
  have hhalf : t.params.half = s.params.half := by rw [h.params]
  induction fuel with
  | zero => exact fun _ => rfl
  | succ fuel ih =>
    intro i
    by_cases hi : i < s.params.half
    · have hedge := h.fallingEdge_congr hi
      have hi' : i < t.params.half := hhalf ▸ hi
      cases hfall : fallingEdge s i s.params.chUartRx with
      | false => rw [uartEventsFrom_of_quiet hi' (hedge.trans hfall), uartEventsFrom_of_quiet hi hfall, ih]
      | true =>
        rw [uartEventsFrom_of_start hi' (hedge.trans hfall), uartEventsFrom_of_start hi hfall, uartEventsOfFrame,
          h.samplePoint_congr, hhalf, ih]
        exact ite_congr rfl (fun hstop => by rw [h.uartFrame_congr hstop]) fun _ => rfl
    · rw [uartEventsFrom_of_le (by omega), uartEventsFrom_of_le (by omega)]

theorem SameLine.uartText_congr (h : SameLine s t) : uartText t = uartText s := by
  rw [uartText_eq, uartText_eq, uartEvents, uartEvents, h.params, h.uartEventsFrom_congr]

end Line

/-- Settles O35: 0 and 1 samples per bit are both a bit period of 1, and the Report depends on nothing else that
differs. -/
theorem zeroBitPeriodActsAsOne : Obligations.ZeroBitPeriodActsAsOne := by
  intro s1 s2 hmem1 hmem2 hbusy1 hbusy2 hparams _ _ hzero hone hline
  have hsame : SameLine s1 s2 := {
    params := hparams.symm
    period := by rw [bitPeriod_eq, bitPeriod_eq, hzero, hone]; rfl
    line := fun i hi => by rw [uartRx, uartRx, ← hparams, hline i hi] }
  have hreport : reportBytes (afterRun decodeUart s1) = reportBytes (afterRun decodeUart s2) := by
    rw [reportBytes_afterRun_decodeUart hmem1, reportBytes_afterRun_decodeUart hmem2, hsame.uartText_congr, hparams]
  exact ⟨_, _, exec_run_of_busy rfl hmem1.legal hbusy1, exec_run_of_busy rfl hmem2.legal hbusy2,
    by rw [rptLen_eq_length, rptLen_eq_length]; exact congrArg List.length hreport, hreport⟩

/-! The room the events take (R246, R250 (a), (g)) -/

/-- A frame takes ten indices at least: its start bit, eight data bits and the stop bit, of one Sample each (R250 (g)). -/
theorem add_nine_le_samplePoint (s : State) (e : Nat) : e + 9 ≤ samplePoint s e 8 := by
  have hperiod : 1 ≤ bitPeriod s := Nat.le_max_left _ _
  rw [samplePoint]
  omega

/-- The data bits of a frame make a byte (R246). -/
theorem uartFrame_value_le (s : State) (e : Nat) : (uartFrame s e).value ≤ 255 := by
  have hlt := lsbFirst_lt (uartBits s e 8)
  rw [uartBits_length] at hlt
  exact Nat.le_of_lt_succ hlt

/-- The events are frames from index `i` on, each with its stop bit in the half, and they share out the indices left. -/
structure UartFramesFrom (s : State) (i : Nat) (evs : List UartEvent) : Prop where
  frames : ∀ e ∈ evs, ∃ start, i ≤ start ∧ samplePoint s start 8 < s.params.half ∧ e = uartFrame s start
  room : 10 * evs.length ≤ s.params.half - i

section Frames

variable {s : State} {i j : Nat} {evs : List UartEvent}

theorem uartFramesFrom_nil (s : State) (i : Nat) : UartFramesFrom s i [] := ⟨by simp, Nat.zero_le _⟩

theorem UartFramesFrom.mono (h : UartFramesFrom s j evs) (hij : i ≤ j) : UartFramesFrom s i evs where
  frames e he := by
    obtain ⟨start, hstart, hframe⟩ := h.frames e he
    exact ⟨start, hij.trans hstart, hframe⟩
  room := h.room.trans (Nat.sub_le_sub_left hij _)

/-- A frame with its stop bit in the half goes in front of those after its stop bit. -/
theorem UartFramesFrom.cons (h : UartFramesFrom s (samplePoint s i 8 + 1) evs)
    (hstop : samplePoint s i 8 < s.params.half) : UartFramesFrom s i (uartFrame s i :: evs) := by
  have hlong := add_nine_le_samplePoint s i
  have hroom := h.room
  refine ⟨List.forall_mem_cons.2 ⟨⟨i, le_rfl, hstop, rfl⟩, (h.mono (by omega)).frames⟩, ?_⟩
  rw [List.length_cons]
  omega

end Frames

/-- The events of a search are the frames of the start edges it finds. -/
theorem uartEventsFrom_frames {s : State} (fuel : Nat) : ∀ {i : Nat}, UartFramesFrom s i (uartEventsFrom s fuel i) := by
  induction fuel with
  | zero => exact fun {i} => uartFramesFrom_nil s i
  | succ fuel ih =>
    intro i
    by_cases hi : i < s.params.half
    · cases hfall : fallingEdge s i s.params.chUartRx with
      | true =>
        rw [uartEventsFrom_of_start hi hfall, uartEventsOfFrame]
        split
        case isTrue hstop => exact ih.cons hstop
        case isFalse => exact uartFramesFrom_nil s i
      | false =>
        rw [uartEventsFrom_of_quiet hi hfall]
        exact ih.mono (Nat.le_succ i)
    · rw [uartEventsFrom_of_le (by omega)]
      exact uartFramesFrom_nil s i

/-- Settles O40: the events are frames of the half from index 1 on, ten indices of it for each. -/
theorem uartEventBounds : Obligations.UartEventBounds := by
  intro s
  obtain ⟨hframes, hroom⟩ : UartFramesFrom s 1 (uartEvents s) := uartEventsFrom_frames _
  refine ⟨fun e he => ?_, (Nat.le_div_iff_mul_le (by decide)).2 (by omega)⟩
  obtain ⟨start, hstart, hstop, rfl⟩ := hframes e he
  exact ⟨hstart, Nat.le_sub_one_of_lt hstop, uartFrame_value_le s start⟩

end Sys2Proof.Proofs

/-!
PROOFS. The report formatter (spec/47_formatter.md): what one append and FINISH write (R261, R264), and what a row of
appends leaves (R262).
-/
namespace Sys2Proof.Proofs

open Sys2Proof.Machine Sys2Proof.Safety Sys2Proof.Laws

/-- Settles O23: an append is one bounded write (`readCell_boundedWrite`) and the advance of its cursor. -/
theorem appendWritesWhatFits : Obligations.AppendWritesWhatFits := by
  refine ⟨fun p t r hwf => ?_, fun p t r hwf => ?_⟩
  · rw [append_eq]
    exact ⟨rfl, readCell_boundedWrite hwf p.reportCap p.fmtReserve r.work.fmt.cur t⟩
  · rw [scrAppend_eq]
    exact ⟨rfl, readCell_boundedWrite hwf p.scratchCap p.fmtReserve r.work.gpio.scrCur t⟩

/-- Settles O25: FINISH is one write of a cell, whatever the threshold. -/
theorem finishWritesNewline : Obligations.FinishWritesNewline :=
  fun r hwf => ⟨rfl, readCell_writeCell hwf.1 r.work.fmt.cur newline⟩

/-- If each append adds its text to what a run holds, a row of them adds all the texts in order. -/
theorem foldl_extends {P : Run → Text → Prop} {f : Text → Run → Run}
    (hstep : ∀ {r text}, P r text → ∀ t, P (f t r) (text ++ t)) (ts : List Text) {r : Run} {text : Text}
    (h : P r text) : P (ts.foldl (fun x t => f t x) r) (text ++ ts.flatten) := by
  induction ts generalizing r text with
  | nil => simpa using h
  | cons t ts ih => simpa using ih (hstep h t)

/-- Settles O24: a row of appends extends the empty text (`Wrote.append`, `ScrWrote.scrAppend`), and `Wrote.finish` adds
the newline. -/
theorem appendsKeepPrefix : Obligations.AppendsKeepPrefix := by
  refine ⟨fun p ts r hwf => ?_, fun p ts r hwf hcur => ?_⟩
  · have hwrote : Wrote p r.rb (ts.foldl (fun x t => append p t x) (initRun r)) ts.flatten :=
      foldl_extends Wrote.append ts (wrote_init hwf)
    obtain ⟨hreport, -⟩ := hwrote.finish
    exact ⟨hwrote.cur, hwrote.bytes, finish_cur _, hreport⟩
  · have hempty : ScrWrote p r.scr r [] := by
      rw [ScrWrote, hcur]
      exact holds_nil hwf
    have hwrote : ScrWrote p r.scr (ts.foldl (fun x t => scrAppend p t x) r) ts.flatten :=
      foldl_extends ScrWrote.scrAppend ts hempty
    exact ⟨hwrote.cur, hwrote.bytes⟩

end Sys2Proof.Proofs

/-!
PROOFS. Every Report is one line (spec/47_formatter.md R265): no text that a run appends holds a newline
(spec/30_encoding.md R105 to R112), so the one of FINISH is the Report's only one, and its last byte.
-/
namespace Sys2Proof.Proofs

open Sys2Proof.Machine Sys2Proof.Safety Sys2Proof.Laws

/-- The text holds no newline. -/
def OneLine (t : Text) : Prop := newline ∉ t

/-! The pieces of a text (R105, R107) -/

@[simp] theorem oneLine_append {t u : Text} : OneLine (t ++ u) ↔ OneLine t ∧ OneLine u := by
  simp [OneLine]

theorem OneLine.take {t : Text} (h : OneLine t) (n : Nat) : OneLine (t.take n) :=
  fun hmem => h (List.mem_of_mem_take hmem)

@[simp] theorem oneLine_comma : OneLine comma := by unfold OneLine; decide

@[simp] theorem oneLine_lbrace : OneLine lbrace := by unfold OneLine; decide

@[simp] theorem oneLine_rbrace : OneLine rbrace := by unfold OneLine; decide

/-- A string written out is checked character by character; `simp` does so with `decide` for the hypothesis. -/
theorem oneLine_ascii {t : String} (h : newline ∉ ascii t) : OneLine (ascii t) := h

theorem digit_ne_newline : ∀ n < 10, digit n ≠ newline := by decide

/-- A number is spelled with digits alone (R107). -/
@[simp] theorem oneLine_dec (n : Nat) : OneLine (dec n) := by
  induction n using Nat.strongRecOn with
  | ind n ih =>
    by_cases hn : n < 10
    · rw [dec_of_lt hn, OneLine, List.mem_singleton]
      exact (digit_ne_newline n hn).symm
    · rw [dec_of_le (by omega), oneLine_append]
      exact ⟨ih _ (by omega), ih _ (by omega)⟩

theorem oneLine_joinComma {ts : List Text} (h : ∀ t ∈ ts, OneLine t) : OneLine (joinComma ts) := by
  induction ts using List.reverseRecOn with
  | nil => exact List.not_mem_nil
  | append_singleton ts t ih =>
    obtain ⟨hts, ht⟩ := List.forall_mem_append.1 h
    have hlast : OneLine t := ht t (List.mem_singleton_self t)
    rw [joinComma_concat]
    split
    · exact hlast
    · simpa using ⟨ih hts, hlast⟩

theorem oneLine_joinComma_map {α : Type} {entry : α → Text} (h : ∀ x, OneLine (entry x)) (xs : List α) :
    OneLine (joinComma (xs.map entry)) :=
  oneLine_joinComma (List.forall_mem_map.2 fun x _ => h x)

/-! The records and the events (R106, R108, R109, R111) -/

theorem oneLine_pairText (idx : Nat) (lvl : Bool) : OneLine (pairText idx lvl) := by
  simp (disch := decide) [pairText, oneLine_ascii]

theorem oneLine_spiEntry (e : SpiEvent) : OneLine (spiEntry e) := by
  simp (disch := decide) [spiEntry, spiEventText, oneLine_ascii]

theorem oneLine_i2cEventText (e : I2cEvent) : OneLine e.text := by
  cases e with
  | start ts => simp (disch := decide) [I2cEvent.text, i2cStartText, oneLine_ascii]
  | stop ts => simp (disch := decide) [I2cEvent.text, i2cStopText, oneLine_ascii]
  | data ts value => simp (disch := decide) [I2cEvent.text, i2cDataText, oneLine_ascii]
  | ack ts acked => simp (disch := decide) [I2cEvent.text, i2cAckText, oneLine_ascii]

theorem oneLine_uartEntry (e : UartEvent) : OneLine (uartEntry e) := by
  cases hferr : e.ferr <;> simp (disch := decide) [uartEntry, uartEventText, hferr, oneLine_ascii]

theorem oneLine_recordsText (pairs : List (Nat × Bool)) : OneLine (recordsText pairs) :=
  oneLine_joinComma_map (fun x : Nat × Bool => oneLine_pairText x.1 x.2) pairs

/-- The entry of a channel is a key, records cut to the size of the scratch, and a bracket (R186). -/
theorem oneLine_gpioEntry (s : State) (c : Nat) : OneLine (gpioEntry s c) := by
  have hrecords : OneLine (gpioScratchText s c) := by
    rw [gpioScratchText_eq]
    exact OneLine.take (oneLine_recordsText _) _
  simp (disch := decide) [gpioEntry, chanKey, chanEnd, hrecords, oneLine_ascii]

/-! The full texts (R106, R108, R109, R111, R112) -/

/-- What a run appends: something, and no newline. -/
structure RunText (t : Text) : Prop where
  nonempty : t ≠ []
  oneLine : OneLine t

theorem runText_gpioText (s : State) : RunText (gpioText s) := by
  have hentries : OneLine (joinComma (gpioEntries s (List.range' 0 channelCount))) :=
    oneLine_joinComma_map (oneLine_gpioEntry s) _
  rw [gpioText_eq]
  exact ⟨by simp [headGpio, lbrace], by simp (disch := decide) [headGpio, tailGpio, hentries, oneLine_ascii]⟩

/-- The three event protocols have texts of one shape: a head, the events, and the common tail. -/
theorem runText_events {head : Text} (hne : head ≠ []) (hhead : OneLine head) {α : Type} {entry : α → Text}
    (hentry : ∀ e, OneLine (entry e)) (evs : List α) : RunText (head ++ joinComma (evs.map entry) ++ tailEvents) := by
  have htail : OneLine tailEvents := by simp (disch := decide) [tailEvents, oneLine_ascii]
  exact ⟨by simp [hne], by simp [hhead, oneLine_joinComma_map hentry, htail]⟩

theorem runText_spiText (s : State) : RunText (spiText s) := by
  rw [spiText_eq]
  exact runText_events (by simp [headSpi, lbrace]) (by simp (disch := decide) [headSpi, oneLine_ascii])
    oneLine_spiEntry _

theorem runText_i2cText (s : State) : RunText (i2cText s) :=
  runText_events (by simp [headI2c, lbrace]) (by simp (disch := decide) [headI2c, oneLine_ascii])
    oneLine_i2cEventText _

theorem runText_uartText (s : State) : RunText (uartText s) := by
  rw [uartText_eq]
  exact runText_events (by simp [headUart, lbrace]) (by simp (disch := decide) [headUart, oneLine_ascii])
    oneLine_uartEntry _

theorem runText_unkText : RunText unkText :=
  ⟨by simp [unkText, lbrace], by simp (disch := decide) [unkText, oneLine_ascii]⟩

/-- Every RUN writes a text without a newline, whatever tag the snapshot holds. -/
theorem exists_wrote_runText {s : State} (hmem : MemoryInv s) (i : Instr) :
    ∃ text, Wrote s.params s.rb (decoderOf i s (initRun (Run.ofState s))) text ∧ RunText text := by
  have hunknown : ∃ text, Wrote s.params s.rb (decodeUnknown s (initRun (Run.ofState s))) text ∧ RunText text :=
    ⟨unkText, (wrote_init (r := Run.ofState s) hmem.rbWf).append unkText, runText_unkText⟩
  cases i with
  | runGpio => exact ⟨_, wrote_decodeGpio hmem.rbWf hmem.scrWf, runText_gpioText s⟩
  | runSpi => exact ⟨_, wrote_decodeSpi hmem.rbWf, runText_spiText s⟩
  | runI2c => exact ⟨_, wrote_decodeI2c hmem.rbWf, runText_i2cText s⟩
  | runUart => exact ⟨_, wrote_decodeUart hmem.legal hmem.rbWf, runText_uartText s⟩
  | _ => exact hunknown

/-! From the bytes of the Report to the cells of RB (R62) -/

theorem readBytes_succ (m : List Host.Cell) (a n : Nat) :
    readBytes m a (n + 1) = readBytes m a n ++ [readCell blankByte m (a + n)] :=
  readBytes_add m a n 1

theorem readCell_mem_readBytes (m : List Host.Cell) {a n : Nat} (ha : a < n) :
    readCell blankByte m a ∈ readBytes m 0 n := by
  obtain ⟨k, rfl⟩ : ∃ k, n = a + 1 + k := ⟨n - (a + 1), by omega⟩
  simp [readBytes_add m 0 (a + 1) k, readBytes_succ]

/-- A Report that is a line `body` and the newline has the newline at its last index and nowhere below. -/
theorem lastByte_of_reportBytes {t : State} {body : Text} (hbody : OneLine body)
    (h : reportBytes t = body ++ [newline]) :
    t.rptLen = body.length + 1 ∧ readCell blankByte t.rb (t.rptLen - 1) = newline ∧
      ∀ a, a < t.rptLen - 1 → readCell blankByte t.rb a ≠ newline := by
  have hlen : t.rptLen = body.length + 1 := by simp [rptLen_eq_length, h]
  have hbytes : readBytes t.rb 0 body.length ++ [readCell blankByte t.rb (0 + body.length)] = body ++ [newline] := by
    rw [← readBytes_succ, ← hlen]
    exact h
  obtain ⟨hline, hlast⟩ := List.append_inj hbytes (by simp)
  rw [hlen, Nat.add_sub_cancel]
  refine ⟨rfl, by simpa using hlast, fun a ha hnewline => hbody ?_⟩
  rw [← hline, ← hnewline]
  exact readCell_mem_readBytes t.rb ha

/-- Settles O26: the Report is the bounded text of the run, which holds no newline (`exists_wrote_runText`), and the
newline; the reserve leaves room for at least one byte of text and for the newline. -/
theorem reportEndsInNewline : Obligations.ReportEndsInNewline := by
  intro i s hrun hmem hbusy
  obtain ⟨hreserve, hcap⟩ := reserve_bounds hmem.legal
  obtain ⟨text, hwrote, hne, hline⟩ := exists_wrote_runText hmem i
  obtain ⟨hlen, hlast, hbelow⟩ := lastByte_of_reportBytes (hline.take _) (reportBytes_of_wrote hwrote)
  have htext : 0 < text.length := List.length_pos_iff.2 hne
  rw [List.length_take] at hlen
  refine ⟨_, exec_run_of_busy hrun hmem.legal hbusy, by omega, by omega, by omega, hlast, hbelow, fun a ha => ?_⟩
  rw [readCell_of_bound (memoryInv_afterRun hmem i).rbBound ha, readCell_of_bound hmem.rbBound ha]

end Sys2Proof.Proofs

/-!
PROOFS. The reset pin (spec/70_reset_and_hazards.md R340, R343).
-/
namespace Sys2Proof.Proofs

open Sys2Proof.Machine Sys2Proof.Laws

/-- Settles O19: the turn is `resetPin`, and `Cfg.atReset` is the configuration R340 names. -/
theorem resetRestoresControl : Obligations.ResetRestoresControl :=
  fun _ _ h => step_cons h

end Sys2Proof.Proofs
